-- ==== Sys2Proof/Word.lean ====
section
/-! DEFINITION. The word types of the machine: every value is an unsigned bit pattern of 4, 8, 12 or 16 bits
(00_scope.md R15, 43_alu.md R142). -/
namespace Sys2Proof

/-- One nibble of an instruction word (30_encoding.md R71). -/
abbrev Nibble := BitVec 4

/-- A register's or a memory location's content (10_state.md R20, 20_memory.md R50). -/
abbrev Byte := BitVec 8

/-- The index register's content, and a 12-bit address field (10_state.md R23, 30_encoding.md R72). -/
abbrev Addr := BitVec 12

/-- An instruction word, the program counter, a stack slot (30_encoding.md R70, 10_state.md R24, R25). -/
abbrev Word := BitVec 16

/-- The number of a general register, 0 to 15 (10_state.md R20). -/
abbrev RegIdx := Fin 16

end Sys2Proof
end

