-- ==== Sys2Proof/Syntax.lean ====
section
/-! DEFINITION. The instruction set: one constructor for each of the 44 rows of the opcode map (30_encoding.md R75),
in the map's order. `x` and `y` are register numbers, `n` a 4-bit, `nn` an 8-bit and `nnn` a 12-bit unsigned
immediate (30_encoding.md R72). -/
namespace Sys2Proof

/-- One instruction (30_encoding.md R75). `shr` and `shl` keep the `y` field that their rules ignore
(43_alu.md R139, R141), so that an instruction has exactly one word. -/
inductive Instr where
  /-- 00E0 (R110) -/
  | cls
  /-- 00EE (R111) -/
  | ret
  /-- 00Cn (R112) -/
  | scd (n : Nibble)
  /-- 00FB (R113) -/
  | scr
  /-- 00FC (R114) -/
  | scl
  /-- 00FD (R115) -/
  | exit
  /-- 00FE (R116) -/
  | low
  /-- 00FF (R117) -/
  | high
  /-- 1nnn (R121) -/
  | jp (nnn : Addr)
  /-- 2nnn (R122) -/
  | call (nnn : Addr)
  /-- 3xnn (R123) -/
  | sei (x : RegIdx) (nn : Byte)
  /-- 4xnn (R124) -/
  | snei (x : RegIdx) (nn : Byte)
  /-- 5xy0 (R125) -/
  | ser (x y : RegIdx)
  /-- 9xy0 (R126) -/
  | sner (x y : RegIdx)
  /-- 6xnn (R131) -/
  | ldi (x : RegIdx) (nn : Byte)
  /-- 7xnn (R132) -/
  | addi (x : RegIdx) (nn : Byte)
  /-- 8xy0 (R133) -/
  | mov (x y : RegIdx)
  /-- 8xy1 (R134) -/
  | or (x y : RegIdx)
  /-- 8xy2 (R135) -/
  | and (x y : RegIdx)
  /-- 8xy3 (R136) -/
  | xor (x y : RegIdx)
  /-- 8xy4 (R137) -/
  | add (x y : RegIdx)
  /-- 8xy5 (R138) -/
  | sub (x y : RegIdx)
  /-- 8xy6 (R139) -/
  | shr (x y : RegIdx)
  /-- 8xy7 (R140) -/
  | subn (x y : RegIdx)
  /-- 8xyE (R141) -/
  | shl (x y : RegIdx)
  /-- Annn (R151) -/
  | ldix (nnn : Addr)
  /-- Bnnn (R152) -/
  | jpv0 (nnn : Addr)
  /-- Cxnn (R153) -/
  | rnd (x : RegIdx) (nn : Byte)
  /-- Dxyn with n other than 0 (R170) -/
  | drw (x y : RegIdx) (n : Nibble)
  /-- Dxy0 (R171) -/
  | drw16 (x y : RegIdx)
  /-- Ex9E (R181) -/
  | skp (x : RegIdx)
  /-- ExA1 (R182) -/
  | sknp (x : RegIdx)
  /-- Fx07 (R183) -/
  | getdt (x : RegIdx)
  /-- Fx0A (R185) -/
  | wkey (x : RegIdx)
  /-- Fx15 (R184) -/
  | setdt (x : RegIdx)
  /-- Fx18 (R186) -/
  | setst (x : RegIdx)
  /-- Fx1E (R191) -/
  | addix (x : RegIdx)
  /-- Fx29 (R192) -/
  | font (x : RegIdx)
  /-- Fx30 (R193) -/
  | font10 (x : RegIdx)
  /-- Fx33 (R194) -/
  | bcd (x : RegIdx)
  /-- Fx55 (R195) -/
  | stm (x : RegIdx)
  /-- Fx65 (R196) -/
  | ldm (x : RegIdx)
  /-- Fx75 (R197) -/
  | sthp (x : RegIdx)
  /-- Fx85 (R198) -/
  | ldhp (x : RegIdx)
  deriving DecidableEq, Repr

end Sys2Proof
end

