-- ==== Sys2Proof/WellFormed.lean ====
section
/-! DEFINITION. Which terms of `Instr` are instructions. The types bound every field; the one constraint left is that of
the DRW row, "n != 0", because Dxy0 is DRW16 (30_encoding.md R74, R75). -/
namespace Sys2Proof

/-- The check on one instruction (30_encoding.md R75: the DRW row selects a word only if n is not 0). -/
def Instr.wf : Instr → Bool
  | .cls | .ret | .scd _ | .scr | .scl | .exit | .low | .high => true
  | .jp _ | .call _ | .sei _ _ | .snei _ _ | .ser _ _ | .sner _ _ => true
  | .ldi _ _ | .addi _ _ | .mov _ _ | .or _ _ | .and _ _ | .xor _ _ => true
  | .add _ _ | .sub _ _ | .shr _ _ | .subn _ _ | .shl _ _ => true
  | .ldix _ | .jpv0 _ | .rnd _ _ => true
  | .drw _ _ n => n != 0#4
  | .drw16 _ _ => true
  | .skp _ | .sknp _ | .getdt _ | .wkey _ | .setdt _ | .setst _ => true
  | .addix _ | .font _ | .font10 _ | .bcd _ | .stm _ | .ldm _ | .sthp _ | .ldhp _ => true

end Sys2Proof
end

