-- ==== Sys2Proof/Decode.lean ====
section
/-! DEFINITION. Decoding and encoding of instruction words (30_encoding.md R70 to R79). Decoding is a total function of
the word alone (R79); a word that selects no row of the opcode map is illegal (R77). -/
namespace Sys2Proof

/-! ### Fields -/

/-- The register a nibble names (30_encoding.md R72: register index 0 to 15). -/
def regOfNibble (b : Nibble) : RegIdx := ⟨b.toNat, b.isLt⟩

/-- The nibble that names a register. -/
def nibbleOfReg (r : RegIdx) : Nibble := BitVec.ofNat 4 r.val

/-- `n3`, the first nibble, which selects the family (30_encoding.md R71). -/
def nibble3 (op : Word) : Nibble := op.extractLsb' 12 4

/-- `n2`, the field `x` (30_encoding.md R71, R72). -/
def nibble2 (op : Word) : Nibble := op.extractLsb' 8 4

/-- `n1`, the field `y` (30_encoding.md R71, R72). -/
def nibble1 (op : Word) : Nibble := op.extractLsb' 4 4

/-- `n0`, the field `n` (30_encoding.md R71, R72). -/
def nibble0 (op : Word) : Nibble := op.extractLsb' 0 4

/-- `to_val(a, b)`: an 8-bit immediate from two nibbles, `a` the high one (30_encoding.md R73). -/
def toVal (a b : Nibble) : Byte := a ++ b

/-- `to_addr(a, b, c)`: a 12-bit address from three nibbles, `a` the highest (30_encoding.md R73). -/
def toAddr (a b c : Nibble) : Addr := a ++ b ++ c

/-- The word with the four nibbles `n3 n2 n1 n0` (30_encoding.md R71). -/
def wordOf (n3 n2 n1 n0 : Nibble) : Word := n3 ++ n2 ++ n1 ++ n0

/-! ### Decoding -/

/-- The family 0: `n3 = 0` and `n2 = 0`, told apart by the low byte (30_encoding.md R75, R76). -/
def decode0 (n2 n1 n0 : Nibble) : Option Instr :=
  match n2 with
  | 0x0#4 =>
    match n1 with
    | 0xC#4 => some (.scd n0)
    | 0xE#4 =>
      match n0 with
      | 0x0#4 => some .cls
      | 0xE#4 => some .ret
      | _ => none
    | 0xF#4 =>
      match n0 with
      | 0xB#4 => some .scr
      | 0xC#4 => some .scl
      | 0xD#4 => some .exit
      | 0xE#4 => some .low
      | 0xF#4 => some .high
      | _ => none
    | _ => none
  | _ => none

/-- The family 8: the low nibble is the operation (30_encoding.md R75). -/
def decode8 (x y : RegIdx) (n0 : Nibble) : Option Instr :=
  match n0 with
  | 0x0#4 => some (.mov x y)
  | 0x1#4 => some (.or x y)
  | 0x2#4 => some (.and x y)
  | 0x3#4 => some (.xor x y)
  | 0x4#4 => some (.add x y)
  | 0x5#4 => some (.sub x y)
  | 0x6#4 => some (.shr x y)
  | 0x7#4 => some (.subn x y)
  | 0xE#4 => some (.shl x y)
  | _ => none

/-- The family E: the low byte is the operation (30_encoding.md R75). -/
def decodeE (x : RegIdx) (kk : Byte) : Option Instr :=
  match kk with
  | 0x9E#8 => some (.skp x)
  | 0xA1#8 => some (.sknp x)
  | _ => none

/-- The family F: the low byte is the operation (30_encoding.md R75). -/
def decodeF (x : RegIdx) (kk : Byte) : Option Instr :=
  match kk with
  | 0x07#8 => some (.getdt x)
  | 0x0A#8 => some (.wkey x)
  | 0x15#8 => some (.setdt x)
  | 0x18#8 => some (.setst x)
  | 0x1E#8 => some (.addix x)
  | 0x29#8 => some (.font x)
  | 0x30#8 => some (.font10 x)
  | 0x33#8 => some (.bcd x)
  | 0x55#8 => some (.stm x)
  | 0x65#8 => some (.ldm x)
  | 0x75#8 => some (.sthp x)
  | 0x85#8 => some (.ldhp x)
  | _ => none

/-- The dispatch on the four nibbles: every fixed nibble of a row must match (30_encoding.md R76). -/
def decodeNibbles (n3 n2 n1 n0 : Nibble) : Option Instr :=
  match n3 with
  | 0x0#4 => decode0 n2 n1 n0
  | 0x1#4 => some (.jp (toAddr n2 n1 n0))
  | 0x2#4 => some (.call (toAddr n2 n1 n0))
  | 0x3#4 => some (.sei (regOfNibble n2) (toVal n1 n0))
  | 0x4#4 => some (.snei (regOfNibble n2) (toVal n1 n0))
  | 0x5#4 => if n0 = 0#4 then some (.ser (regOfNibble n2) (regOfNibble n1)) else none
  | 0x6#4 => some (.ldi (regOfNibble n2) (toVal n1 n0))
  | 0x7#4 => some (.addi (regOfNibble n2) (toVal n1 n0))
  | 0x8#4 => decode8 (regOfNibble n2) (regOfNibble n1) n0
  | 0x9#4 => if n0 = 0#4 then some (.sner (regOfNibble n2) (regOfNibble n1)) else none
  | 0xA#4 => some (.ldix (toAddr n2 n1 n0))
  | 0xB#4 => some (.jpv0 (toAddr n2 n1 n0))
  | 0xC#4 => some (.rnd (regOfNibble n2) (toVal n1 n0))
  | 0xD#4 =>
    if n0 = 0#4 then some (.drw16 (regOfNibble n2) (regOfNibble n1))
    else some (.drw (regOfNibble n2) (regOfNibble n1) n0)
  | 0xE#4 => decodeE (regOfNibble n2) (toVal n1 n0)
  | 0xF#4 => decodeF (regOfNibble n2) (toVal n1 n0)
  | _ => none

/-- The decoder: one of the 44 rows, or none for an illegal word (30_encoding.md R75 to R79). -/
def decode (op : Word) : Option Instr :=
  decodeNibbles (nibble3 op) (nibble2 op) (nibble1 op) (nibble0 op)

/-- What the decoder answers on bytes. -/
inductive Decoded where
  /-- An instruction and the bytes after it. -/
  | instr (i : Instr) (rest : List Byte)
  /-- The first word selects no row of the opcode map (30_encoding.md R77). -/
  | unknownOpcode (op : Word)
  /-- Fewer than two bytes: not a whole word (30_encoding.md R70). -/
  | truncated
  deriving DecidableEq, Repr

/-- The big-endian word of two bytes, `hi` at the lower address (20_memory.md R55). -/
def wordOfBytes (hi lo : Byte) : Word := hi ++ lo

/-- Decoding of any bytes: the first two, high byte first, are the instruction (30_encoding.md R70). -/
def decodeBytes : List Byte → Decoded
  | hi :: lo :: rest =>
    match decode (wordOfBytes hi lo) with
    | some i => .instr i rest
    | none => .unknownOpcode (wordOfBytes hi lo)
  | _ => .truncated

/-! ### Encoding -/

/-- A word of format NNN (30_encoding.md R74). -/
def encNNN (h : Nibble) (nnn : Addr) : Word :=
  wordOf h (nnn.extractLsb' 8 4) (nnn.extractLsb' 4 4) (nnn.extractLsb' 0 4)

/-- A word of format XNN; with a fixed low byte it is one of format X (30_encoding.md R74). -/
def encXNN (h : Nibble) (x : RegIdx) (nn : Byte) : Word :=
  wordOf h (nibbleOfReg x) (nn.extractLsb' 4 4) (nn.extractLsb' 0 4)

/-- A word of format XYN; with a fixed low nibble it is one of format XY (30_encoding.md R74). -/
def encXYN (h : Nibble) (x y : RegIdx) (n : Nibble) : Word :=
  wordOf h (nibbleOfReg x) (nibbleOfReg y) n

/-- The word of an instruction (30_encoding.md R75). -/
def encode : Instr → Word
  | .cls => 0x00E0#16
  | .ret => 0x00EE#16
  | .scd n => wordOf 0x0#4 0x0#4 0xC#4 n
  | .scr => 0x00FB#16
  | .scl => 0x00FC#16
  | .exit => 0x00FD#16
  | .low => 0x00FE#16
  | .high => 0x00FF#16
  | .jp nnn => encNNN 0x1#4 nnn
  | .call nnn => encNNN 0x2#4 nnn
  | .sei x nn => encXNN 0x3#4 x nn
  | .snei x nn => encXNN 0x4#4 x nn
  | .ser x y => encXYN 0x5#4 x y 0x0#4
  | .sner x y => encXYN 0x9#4 x y 0x0#4
  | .ldi x nn => encXNN 0x6#4 x nn
  | .addi x nn => encXNN 0x7#4 x nn
  | .mov x y => encXYN 0x8#4 x y 0x0#4
  | .or x y => encXYN 0x8#4 x y 0x1#4
  | .and x y => encXYN 0x8#4 x y 0x2#4
  | .xor x y => encXYN 0x8#4 x y 0x3#4
  | .add x y => encXYN 0x8#4 x y 0x4#4
  | .sub x y => encXYN 0x8#4 x y 0x5#4
  | .shr x y => encXYN 0x8#4 x y 0x6#4
  | .subn x y => encXYN 0x8#4 x y 0x7#4
  | .shl x y => encXYN 0x8#4 x y 0xE#4
  | .ldix nnn => encNNN 0xA#4 nnn
  | .jpv0 nnn => encNNN 0xB#4 nnn
  | .rnd x nn => encXNN 0xC#4 x nn
  | .drw x y n => encXYN 0xD#4 x y n
  | .drw16 x y => encXYN 0xD#4 x y 0x0#4
  | .skp x => encXNN 0xE#4 x 0x9E#8
  | .sknp x => encXNN 0xE#4 x 0xA1#8
  | .getdt x => encXNN 0xF#4 x 0x07#8
  | .wkey x => encXNN 0xF#4 x 0x0A#8
  | .setdt x => encXNN 0xF#4 x 0x15#8
  | .setst x => encXNN 0xF#4 x 0x18#8
  | .addix x => encXNN 0xF#4 x 0x1E#8
  | .font x => encXNN 0xF#4 x 0x29#8
  | .font10 x => encXNN 0xF#4 x 0x30#8
  | .bcd x => encXNN 0xF#4 x 0x33#8
  | .stm x => encXNN 0xF#4 x 0x55#8
  | .ldm x => encXNN 0xF#4 x 0x65#8
  | .sthp x => encXNN 0xF#4 x 0x75#8
  | .ldhp x => encXNN 0xF#4 x 0x85#8

/-! ### The opcode table's words -/

/-- The high byte of a word, which memory holds at the lower address (20_memory.md R55). -/
def hiByte (op : Word) : Byte := op.extractLsb' 8 8

/-- The low byte of a word. -/
def loByte (op : Word) : Byte := op.extractLsb' 0 8

/-- The word whose bits are the low `nbits` bits of `w`, every bit above them 0. -/
def tableWord (nbits w : Nat) : Word := BitVec.ofNat 16 (w % 2 ^ nbits)

/-- The instruction the decoder reads from the word `w`, laid out in memory's byte order (20_memory.md R55). -/
def decodeTableWord (nbits w : Nat) : Option Instr :=
  match decodeBytes [hiByte (tableWord nbits w), loByte (tableWord nbits w)] with
  | .instr i _ => some i
  | .unknownOpcode _ => none
  | .truncated => none

end Sys2Proof
end

