-- ==== Sys2Proof/Config.lean ====
section
/-! DEFINITION. What is fixed for the machine, and the values the spec leaves open.
The fixed parameters are those of 00_scope.md R7. The free values are opaque constants without a body: nothing can be
proved about the value they give. Each takes the number of the draw, so that every draw is a fresh value. -/
namespace Sys2Proof

/-- MEM_SIZE: the memory has 4096 bytes, and every address is reduced modulo it (00_scope.md R7, 20_memory.md R54). -/
abbrev Config.memSize : Nat := 4096

/-- PROG_BASE: where the program image begins and the first fetch goes (00_scope.md R7, 70_reset_and_hazards.md R230). -/
abbrev Config.progBase : Nat := 0x200

/-- PROG_MAX: the largest program image in bytes (00_scope.md R7, 20_memory.md R59). -/
abbrev Config.progMax : Nat := 0xE00

/-- FB_W: columns of the backing grid (00_scope.md R7). -/
abbrev Config.fbW : Nat := 128

/-- FB_H: rows of the backing grid (00_scope.md R7). -/
abbrev Config.fbH : Nat := 64

/-- The five operations whose result and flag share a destination when x = 15 (43_alu.md R143). -/
inductive FlagOp where
  | add | sub | shr | subn | shl
  deriving DecidableEq, Repr

/-- Which of the two writes to VF lands last (00_scope.md R7, VF_ORDER). -/
inductive VfOrder where
  | flagLast | resultLast
  deriving DecidableEq, Repr, Inhabited

/-- FREE VALUE. FONT_LARGE, the 160 bytes at 0x050 to 0x0EF, byte k at 0x050 + k: an open parameter without a default
(00_scope.md R7, 20_memory.md R52). Safe; log 1. -/
opaque Config.fontLarge : Nat → Byte

/-- FREE VALUE. VF_ORDER(op), a free choice per execution (00_scope.md R7, 43_alu.md R143). Safe; log 5. -/
opaque Config.vfOrder : FlagOp → Nat → VfOrder

/-- FREE VALUE. The byte the random source delivers (00_scope.md R10, 44_index_jump_random.md R153). Safe; log 6. -/
opaque Config.rnd : Nat → Byte

/-- FREE VALUE. The key oracle's answer for the full 8-bit index passed to it, any boolean for an index above 15
(46_keys_timers.md R180). Safe; log 7. -/
opaque Config.keyDown : Nat → Byte → Bool

/-- FREE VALUE. The key handshake's answer to one poll of a waiting Fx0A: a key index 0 to 15, or none yet
(00_scope.md R11, 46_keys_timers.md R185). Safe; log 8. -/
opaque Config.keyWait : Nat → Option Nibble

end Sys2Proof
end

