-- ==== Sys2Proof/Machine/State.lean ====
section
/-! DEFINITION. The machine's state, plain data, and the state after reset (10_state.md). -/
namespace Sys2Proof.Machine

/-- The display resolution selected (10_state.md R31). -/
inductive Mode where
  | chip | schip
  deriving DecidableEq, Repr

/-- The four fatal conditions (60_exceptions.md R201). -/
inductive FatalCause where
  /-- The fetched word selects no row of the opcode map (R202). -/
  | unknownOpcode
  /-- 2nnn with SP = 16 on entry (R203). -/
  | stackOverflow
  /-- 00EE with SP = 0 on entry (R204). -/
  | stackUnderflow
  /-- Fx75 or Fx85 with x > 7 (R205). -/
  | hpIndexRange
  deriving DecidableEq, Repr

/-- What the FAULT latch records: the condition and the opcode of the faulting instruction (60_exceptions.md R201). -/
structure FaultRecord where
  cause : FatalCause
  op : Word
  deriving DecidableEq, Repr

/-- Memory as the list of the bytes that differ from what an unlisted address reads as, addresses rising. -/
abbrev Memory := List Host.Cell

/-- The 128x64 backing grid, one 128-bit row per y; bit x of row y is the pixel FB[y][x] (10_state.md R33). -/
abbrev Fb := Vector (BitVec 128) 64

/-- The MODEL's own: what the environment will answer next, oldest first. An empty list leaves the answer free
(00_scope.md R10, R11; log 6 to log 8, log 10). -/
structure Inputs where
  /-- The next random bytes. -/
  rnd : List Byte
  /-- The next samples of the signal `key_down[15:0]`, bit k for key k. -/
  keyDown : List Word
  /-- The next answers of the key handshake, one for each poll of a waiting Fx0A. -/
  keyWait : List (Option Nibble)
  deriving DecidableEq, Repr

/-- Everything the spec gives the machine (10_state.md R20 to R36), and the model's own `inputs` and `draws`. -/
structure State where
  /-- V0 to VF (R20); V15 is the flag (R21). -/
  v : Vector Byte 16
  /-- The index register (R23). -/
  i : Addr
  /-- The program counter, 16 bits, below 4096 at every step boundary (R24). -/
  pc : Word
  /-- The stack pointer, an integer 0 to 16: the next free slot (R26). -/
  sp : Fin 17
  /-- The call stack (R25). -/
  stack : Vector Word 16
  /-- The delay timer (R27). -/
  dt : Byte
  /-- The sound timer (R28). -/
  st : Byte
  /-- The HP48 bytes (R29). -/
  hp : Vector Byte 8
  /-- The halt flag (R30). -/
  halt : Bool
  /-- The mode flag (R31). -/
  mode : Mode
  /-- The FAULT latch (R32). -/
  fault : Option FaultRecord
  /-- The memory (R34). -/
  mem : Memory
  /-- The framebuffer (R33). -/
  fb : Fb
  /-- The waiting condition of Fx0A: the register whose key is awaited (R35). -/
  wait : Option RegIdx
  /-- The model's own: the environment's answers already determined. -/
  inputs : Inputs
  /-- The model's own: how many free values have been drawn. -/
  draws : Nat
  deriving DecidableEq, Repr

/-- Reasons for which a step stops the machine with no next state: there are none. Every fatal condition of the spec is a
next state with the FAULT latch set (40_step_cycle.md R107), and everything else wraps or clips (60_exceptions.md R217).
Nobody raises it. -/
inductive Fault where
  deriving DecidableEq, Repr

/-- Reasons for which the model gives no meaning. -/
inductive Refusal where
  /-- Raised by an arm of `exec` whose instruction has no meaning yet; no arm does. Safe. -/
  | notModelled (mnemonic : String)
  /-- Raised by a reset with a program longer than 0xE00 bytes, and by no instruction (70_reset_and_hazards.md R232:
  "a model refuses it"). Safe. -/
  | oversizedProgram (length : Nat)
  deriving DecidableEq, Repr

/-- What a meaning and a step answer. -/
abbrev Result := Host.Outcome State Fault Refusal

/-- The state after a reset with the empty program (10_state.md R40, 70_reset_and_hazards.md R230, R232): memory lists
nothing, so that every address reads as its reset content. HP is 0 by log 3, `inputs` and `draws` are the model's own
(log 10); every other value is R40's. -/
def State.reset : State where
  v := Vector.replicate 16 0#8
  i := 0#12
  pc := 0x200#16
  sp := 1
  stack := Vector.replicate 16 0#16
  dt := 0#8
  st := 0#8
  hp := Vector.replicate 8 0#8
  halt := false
  mode := .chip
  fault := none
  mem := []
  fb := Vector.replicate 64 0#128
  wait := none
  inputs := { rnd := [], keyDown := [], keyWait := [] }
  draws := 0

end Sys2Proof.Machine
end

