-- ==== Sys2Proof/Machine/Memory.lean ====
section
/-! DEFINITION. The memory: what each of the 4096 addresses reads as at reset, reading and writing one byte, and the
canonical form (20_memory.md R50 to R57). -/
namespace Sys2Proof.Machine

/-- FONT_SMALL at its default, the glyphs 0 to 7, five bytes each (20_memory.md R52; PRESUMED, log 2). -/
def fontSmallLow : List Byte :=
  [0xF0#8, 0x90#8, 0x90#8, 0x90#8, 0xF0#8] ++
  [0x20#8, 0x60#8, 0x20#8, 0x20#8, 0x70#8] ++
  [0xF0#8, 0x10#8, 0xF0#8, 0x80#8, 0xF0#8] ++
  [0xF0#8, 0x10#8, 0xF0#8, 0x10#8, 0xF0#8] ++
  [0x90#8, 0x90#8, 0xF0#8, 0x10#8, 0x10#8] ++
  [0xF0#8, 0x80#8, 0xF0#8, 0x10#8, 0xF0#8] ++
  [0xF0#8, 0x80#8, 0xF0#8, 0x90#8, 0xF0#8] ++
  [0xF0#8, 0x10#8, 0x20#8, 0x40#8, 0x40#8]

/-- FONT_SMALL at its default, the glyphs 8 to F (20_memory.md R52; PRESUMED, log 2). -/
def fontSmallHigh : List Byte :=
  [0xF0#8, 0x90#8, 0xF0#8, 0x90#8, 0xF0#8] ++
  [0xF0#8, 0x90#8, 0xF0#8, 0x10#8, 0xF0#8] ++
  [0xF0#8, 0x90#8, 0xF0#8, 0x90#8, 0x90#8] ++
  [0xE0#8, 0x90#8, 0xE0#8, 0x90#8, 0xE0#8] ++
  [0xF0#8, 0x80#8, 0x80#8, 0x80#8, 0xF0#8] ++
  [0xE0#8, 0x90#8, 0x90#8, 0x90#8, 0xE0#8] ++
  [0xF0#8, 0x80#8, 0xF0#8, 0x80#8, 0xF0#8] ++
  [0xF0#8, 0x80#8, 0xF0#8, 0x80#8, 0x80#8]

/-- FONT_SMALL: glyph d occupies the bytes 5*d to 5*d + 4 (20_memory.md R52). -/
def fontSmall : List Byte := fontSmallLow ++ fontSmallHigh

/-- What an address that the list does not hold reads as: its content at reset. The standard font at 0x000 to 0x04F, the
extended font (free) at 0x050 to 0x0EF, zero elsewhere (20_memory.md R52, 10_state.md R40). -/
def Memory.unlisted (a : Nat) : Byte :=
  if a < 0x050 then fontSmall.getD a 0#8
  else if a < 0x0F0 then Config.fontLarge (a - 0x050)
  else 0#8

/-- The byte at an address. -/
def Memory.read : Memory → Nat → Byte
  | [], a => Memory.unlisted a
  | (b, w) :: m, a => if a = b then w else Memory.read m a

/-- The list without its entry for an address. -/
def Memory.erase : Memory → Nat → Memory
  | [], _ => []
  | (b, w) :: m, a => if b = a then Memory.erase m a else (b, w) :: Memory.erase m a

/-- The list with an entry put in before the first higher address. -/
def Memory.insert : Memory → Nat → Byte → Memory
  | [], a, v => [(a, v)]
  | (b, w) :: m, a, v => if a < b then (a, v) :: (b, w) :: m else (b, w) :: Memory.insert m a v

/-- Write one byte. Writing what an unlisted address reads as removes the entry, so that equal memories are equal
lists. -/
def Memory.write (m : Memory) (a : Nat) (v : Byte) : Memory :=
  if v = Memory.unlisted a then Memory.erase m a else Memory.insert (Memory.erase m a) a v

/-- The canonical form: addresses strictly rising and inside the space, and no entry equal to what an unlisted address
reads as. -/
abbrev Memory.wf (m : Memory) : Prop :=
  m.Pairwise (fun c d => c.1 < d.1) ∧ ∀ c ∈ m, c.1 < Config.memSize ∧ c.2 ≠ Memory.unlisted c.1

/-- `MemRead(a, 1) = MEM[a mod 4096]` (20_memory.md R54). -/
def State.memRead (s : State) (a : Nat) : Byte := Memory.read s.mem (a % Config.memSize)

/-- `MemWrite(a, 1, v)`: `MEM[a mod 4096] <- v` (20_memory.md R54). -/
def State.memWrite (s : State) (a : Nat) (v : Byte) : State :=
  { s with mem := Memory.write s.mem (a % Config.memSize) v }

/-- Bytes stored at ascending addresses. -/
def State.memWriteList (s : State) : Nat → List Byte → State
  | _, [] => s
  | a, v :: vs => (s.memWrite a v).memWriteList (a + 1) vs

end Sys2Proof.Machine
end

