-- ==== Sys2Proof/Machine/Operands.lean ====
section
/-! DEFINITION. Operand forms: registers, the program counter's arithmetic, the one data addressing mode, and the values
drawn from the environment. Immediates are used as they are (30_encoding.md R73). -/
namespace Sys2Proof.Machine

/-! ### Registers -/

/-- The FLAG register's number (10_state.md R21). -/
abbrev flagReg : RegIdx := 15

/-- `V[r]` (10_state.md R20). -/
def State.getV (s : State) (r : RegIdx) : Byte := s.v[r.val]

/-- `V[r] <- b` (10_state.md R20: all 16 registers are written alike, VF included). -/
def State.setV (s : State) (r : RegIdx) (b : Byte) : State := { s with v := s.v.set r.val b }

/-- The registers 0 to x, in ascending order: "for k = 0 to x" (47_index_memory.md R195 to R198). -/
def regsUpTo (x : RegIdx) : List RegIdx := (List.range (x.val + 1)).map (Fin.ofNat 16)

/-- The HP48 byte that goes with register k, for k = 0 to 7 (47_index_memory.md R197). -/
def hpOf (k : RegIdx) : Fin 8 := Fin.ofNat 8 k.val

/-- `HP[k]` (10_state.md R29). -/
def State.getHp (s : State) (k : Fin 8) : Byte := s.hp[k.val]

/-- `HP[k] <- b` (10_state.md R29). -/
def State.setHp (s : State) (k : Fin 8) (b : Byte) : State := { s with hp := s.hp.set k.val b }

/-- `I <- n`, reduced mod 4096 (10_state.md R23). -/
def State.setI (s : State) (n : Nat) : State := { s with i := BitVec.ofNat 12 n }

/-- `DT <- b` (10_state.md R27). -/
def State.setDt (s : State) (b : Byte) : State := { s with dt := b }

/-- `ST <- b` (10_state.md R28). -/
def State.setSt (s : State) (b : Byte) : State := { s with st := b }

/-! ### Program counter -/

/-- A program counter value: a number reduced mod 4096 in a 16-bit register (10_state.md R24). -/
def pcOf (n : Nat) : Word := BitVec.ofNat 16 (n % Config.memSize)

/-- `PC <- t` (00_scope.md R16). -/
def State.setPc (s : State) (t : Word) : State := { s with pc := t }

/-- `Skip(c)`: a further advance by 2 when the condition holds (40_step_cycle.md R105). -/
def State.skipIf (s : State) (c : Bool) : State := s.setPc (if c then pcOf (s.pc.toNat + 2) else s.pc)

/-! ### Data addressing -/

/-- `EA(k) = (I + k) mod 4096` (47_index_memory.md R190). -/
def State.ea (s : State) (k : Nat) : Nat := (s.i.toNat + k) % Config.memSize

/-! ### Draws from the environment -/

/-- The random byte that a draw gives now: the next one determined, or a free value (00_scope.md R10). -/
def State.rndByte (s : State) : Byte :=
  match s.inputs.rnd with
  | b :: _ => b
  | [] => Config.rnd s.draws

/-- The state after a random byte has been drawn. -/
def State.drawnRnd (s : State) : State :=
  { s with inputs := { s.inputs with rnd := s.inputs.rnd.tail }, draws := s.draws + 1 }

/-- `KeyDown(k)`: bit k of the sample of `key_down` for k = 0 to 15, any boolean for a higher index, which is not masked
(46_keys_timers.md R180). -/
def State.keyDown (s : State) (k : Byte) : Bool :=
  match s.inputs.keyDown with
  | sample :: _ => if k.toNat < 16 then sample.getLsbD k.toNat else Config.keyDown s.draws k
  | [] => Config.keyDown s.draws k

/-- The state after `key_down` has been sampled. -/
def State.drawnKeyDown (s : State) : State :=
  { s with inputs := { s.inputs with keyDown := s.inputs.keyDown.tail }, draws := s.draws + 1 }

/-- The key handshake's answer now: a key index, or none yet (00_scope.md R11). -/
def State.keyAnswer (s : State) : Option Nibble :=
  match s.inputs.keyWait with
  | a :: _ => a
  | [] => Config.keyWait s.draws

/-- The state after the key handshake has been polled. -/
def State.drawnKeyWait (s : State) : State :=
  { s with inputs := { s.inputs with keyWait := s.inputs.keyWait.tail }, draws := s.draws + 1 }

/-- The state after an open choice has been made. -/
def State.drawnChoice (s : State) : State := { s with draws := s.draws + 1 }

end Sys2Proof.Machine
end

