-- ==== Sys2Proof/Machine/Flags.lean ====
section
/-! DEFINITION. Flag computations. Every flag is computed from the operands read before anything is written
(43_alu.md R130) and is exactly 0 or 1 (10_state.md R21). -/
namespace Sys2Proof.Machine

/-- A condition as a flag byte (10_state.md R21). -/
def flagByte (c : Bool) : Byte := if c then 1#8 else 0#8

/-- The flag of an 8-bit addition: 1 iff 0xFF - a < b (43_alu.md R137). -/
def addFlag (a b : Byte) : Byte := flagByte (decide (0xFF - a.toNat < b.toNat))

/-- The flag of a subtraction: 1 iff the minuend is strictly greater than the subtrahend (43_alu.md R138, R140). -/
def subFlag (minuend subtrahend : Byte) : Byte := flagByte (decide (subtrahend.toNat < minuend.toNat))

/-- The flag of a right shift: the bit shifted out, bit 0 (43_alu.md R139). -/
def shrFlag (a : Byte) : Byte := flagByte (a.getLsbD 0)

/-- The flag of a left shift: the bit shifted out, bit 7 (43_alu.md R141). -/
def shlFlag (a : Byte) : Byte := flagByte (a.getLsbD 7)

/-- The flag of the index addition: 1 iff 0xFFF - a < i (47_index_memory.md R191). -/
def addixFlag (i : Addr) (a : Byte) : Byte := flagByte (decide (0xFFF - a.toNat < i.toNat))

/-- `V[x] <- r ; V[15] <- f`, in an order that shows only when x = 15: then the last write wins, and which one is last is
a free choice of each execution (43_alu.md R143; log 5). -/
def State.setResultAndFlag (s : State) (op : FlagOp) (x : RegIdx) (r f : Byte) : State :=
  if x = flagReg then
    (s.setV flagReg
      (match Config.vfOrder op s.draws with
        | .flagLast => f
        | .resultLast => r)).drawnChoice
  else (s.setV x r).setV flagReg f

end Sys2Proof.Machine
end

