-- ==== Sys2Proof/Machine/Ops.lean ====
section
/-! DEFINITION. Shared operations: the phases of a step, the fatal conditions, the call stack, the key wait, and reset
with a program. -/
namespace Sys2Proof.Machine

/-! ### Fatal conditions (60_exceptions.md)

There is no return beside it: the machine has no handler and no return from a fatal condition (R209); only reset leaves
Faulted (70_reset_and_hazards.md R231). -/

/-- `raise F(op)`: the latch takes the condition and the opcode and nothing else is written; PC keeps the value of the
pre-advance (40_step_cycle.md R107, 60_exceptions.md R207). The timer phase and every later step look at the latch. -/
def State.raise (s : State) (c : FatalCause) (op : Word) : State :=
  { s with fault := some { cause := c, op := op } }

/-- The gate: a step request performs nothing while Halted or Faulted (40_step_cycle.md R108). -/
def State.stopped (s : State) : Bool := s.halt || s.fault.isSome

/-! ### Phases of a step (40_step_cycle.md) -/

/-- Fetch: the big-endian word at PC and PC + 1, both addresses mod 4096 (R101). -/
def State.fetch (s : State) : Word :=
  wordOfBytes (s.memRead s.pc.toNat) (s.memRead (s.pc.toNat + 1))

/-- Pre-advance: `PC <- (PC0 + 2) mod 4096` (R102). -/
def State.preAdvance (s : State) : State := s.setPc (pcOf (s.pc.toNat + 2))

/-- One timer's tick: down by one while nonzero, no wrap (R104). -/
def tick (t : Byte) : Byte := if t = 0#8 then 0#8 else t - 1#8

/-- Whether the body has run to its end: no fatal condition, and no key awaited (R100). -/
def State.completed (s : State) : Bool := s.fault.isNone && s.wait.isNone

/-- Timer phase, after a completed body and only then: both timers tick (R104, R107; 46_keys_timers.md R185). -/
def State.timerPhase (s : State) : State :=
  if s.completed then (s.setDt (tick s.dt)).setSt (tick s.st) else s

/-! ### Call stack (10_state.md R25, R26) -/

/-- Push: `STACK[SP] <- zext_16(PC); SP <- SP + 1`, for a caller that has checked SP < 16 (42_jump_call_skip.md R122). -/
def State.pushPc (s : State) (h : s.sp.val < 16) : State :=
  { s with stack := s.stack.set s.sp.val s.pc, sp := ⟨s.sp.val + 1, Nat.succ_lt_succ h⟩ }

/-- Pop: `SP <- SP - 1; PC <- STACK[SP]`, for a caller that has checked SP > 0; the slot keeps its value
(41_system_display_control.md R111). -/
def State.popPc (s : State) (h : 0 < s.sp.val) : State :=
  { s with
    sp := ⟨s.sp.val - 1, Nat.lt_of_le_of_lt (Nat.sub_le _ _) s.sp.isLt⟩
    pc := s.stack[s.sp.val - 1]'(Nat.lt_of_lt_of_le (Nat.sub_lt h Nat.one_pos) (Nat.le_of_lt_succ s.sp.isLt)) }

/-! ### Key wait (46_keys_timers.md R185) -/

/-- One poll of the key handshake for register x: with a key the register takes its index and the wait is over; without
one the step stays in progress and nothing else changes. -/
def State.awaitKey (s : State) (x : RegIdx) : State :=
  match s.keyAnswer with
  | some k => { s.drawnKeyWait.setV x (k.setWidth 8) with wait := none }
  | none => { s.drawnKeyWait with wait := some x }

/-! ### Reset with a program, and placing one word -/

/-- Reset with a program buffer: the state of 10_state.md R40, the program copied to 0x200 upward; a program longer than
0xE00 bytes is refused (70_reset_and_hazards.md R230, R232). It does not look at the state before it (R231). -/
def State.resetWith (rom : List Byte) : Result :=
  if rom.length ≤ Config.progMax then .next (State.reset.memWriteList Config.progBase rom)
  else .refused (.oversizedProgram rom.length)

/-- A word stored where the next fetch reads it, on a machine that is neither halted, faulted nor waiting. -/
def State.placeWord (s : State) (op : Word) : State :=
  { s.memWriteList s.pc.toNat [hiByte op, loByte op] with halt := false, fault := none, wait := none }

end Sys2Proof.Machine
end

