-- ==== Sys2Proof/Machine/Alu.lean ====
section
/-! DEFINITION. Register load, immediate add and the register-register operations (43_alu.md). Operands are read before
anything is written (R130); results wrap at 8 bits (R142). -/
namespace Sys2Proof.Machine

/-- LDI Vx, nn (R131): `V[x] <- nn`. -/
def execLdi (x : RegIdx) (nn : Byte) (s : State) : Result := .next (s.setV x nn)

/-- ADDI Vx, nn (R132): `V[x] <- (V[x] + nn) mod 256`, no carry. -/
def execAddi (x : RegIdx) (nn : Byte) (s : State) : Result := .next (s.setV x (s.getV x + nn))

/-- MOV Vx, Vy (R133): `V[x] <- V[y]`. -/
def execMov (x y : RegIdx) (s : State) : Result := .next (s.setV x (s.getV y))

/-- OR Vx, Vy (R134). -/
def execOr (x y : RegIdx) (s : State) : Result := .next (s.setV x (s.getV x ||| s.getV y))

/-- AND Vx, Vy (R135). -/
def execAnd (x y : RegIdx) (s : State) : Result := .next (s.setV x (s.getV x &&& s.getV y))

/-- XOR Vx, Vy (R136). -/
def execXor (x y : RegIdx) (s : State) : Result := .next (s.setV x (s.getV x ^^^ s.getV y))

/-- ADD Vx, Vy (R137): the sum mod 256, VF the carry. -/
def execAdd (x y : RegIdx) (s : State) : Result :=
  .next (s.setResultAndFlag .add x (s.getV x + s.getV y) (addFlag (s.getV x) (s.getV y)))

/-- SUB Vx, Vy (R138): Vx - Vy mod 256, VF = 1 iff Vy < Vx. -/
def execSub (x y : RegIdx) (s : State) : Result :=
  .next (s.setResultAndFlag .sub x (s.getV x - s.getV y) (subFlag (s.getV x) (s.getV y)))

/-- SHR Vx (R139): Vx shifted right by one, VF the bit shifted out; y is ignored. -/
def execShr (x _y : RegIdx) (s : State) : Result :=
  .next (s.setResultAndFlag .shr x (s.getV x >>> 1) (shrFlag (s.getV x)))

/-- SUBN Vx, Vy (R140): Vy - Vx mod 256, VF = 1 iff Vx < Vy. -/
def execSubn (x y : RegIdx) (s : State) : Result :=
  .next (s.setResultAndFlag .subn x (s.getV y - s.getV x) (subFlag (s.getV y) (s.getV x)))

/-- SHL Vx (R141): Vx shifted left by one, VF the bit shifted out; y is ignored. -/
def execShl (x _y : RegIdx) (s : State) : Result :=
  .next (s.setResultAndFlag .shl x (s.getV x <<< 1) (shlFlag (s.getV x)))

end Sys2Proof.Machine
end

