-- ==== Sys2Proof/Machine/Block.lean ====
section
/-! DEFINITION. BCD, block store and load, and the HP48 bytes (47_index_memory.md R194 to R198). I is never changed
(R190). -/
namespace Sys2Proof.Machine

/-- "for k in the list: MemWrite(I + k, 1, V[k])" (R195). -/
def State.storeRegs (s : State) : List RegIdx → State
  | [] => s
  | k :: ks => (s.memWrite (s.ea k.val) (s.getV k)).storeRegs ks

/-- "for k in the list: V[k] <- MemRead(I + k, 1)" (R196). -/
def State.loadRegs (s : State) : List RegIdx → State
  | [] => s
  | k :: ks => (s.setV k (s.memRead (s.ea k.val))).loadRegs ks

/-- "for k in the list: HP[k] <- V[k]" (R197). -/
def State.storeHp (s : State) : List RegIdx → State
  | [] => s
  | k :: ks => (s.setHp (hpOf k) (s.getV k)).storeHp ks

/-- "for k in the list: V[k] <- HP[k]" (R198). -/
def State.loadHp (s : State) : List RegIdx → State
  | [] => s
  | k :: ks => (s.setV k (s.getHp (hpOf k))).loadHp ks

/-- BCD Vx (R194): hundreds, tens, ones at I, I + 1, I + 2. -/
def execBcd (x : RegIdx) (s : State) : Result :=
  .next (((s.memWrite (s.ea 0) (BitVec.ofNat 8 ((s.getV x).toNat / 100))).memWrite (s.ea 1)
    (BitVec.ofNat 8 ((s.getV x).toNat / 10 % 10))).memWrite (s.ea 2) (BitVec.ofNat 8 ((s.getV x).toNat % 10)))

/-- STM Vx (R195): V0 to Vx to memory at I. -/
def execStm (x : RegIdx) (s : State) : Result := .next (s.storeRegs (regsUpTo x))

/-- LDM Vx (R196): V0 to Vx from memory at I. -/
def execLdm (x : RegIdx) (s : State) : Result := .next (s.loadRegs (regsUpTo x))

/-- STHP Vx (R197): HpIndexRange with x > 7, else V0 to Vx to the HP48 bytes. -/
def execSthp (x : RegIdx) (s : State) : Result :=
  if x.val > 7 then .next (s.raise .hpIndexRange (encode (.sthp x))) else .next (s.storeHp (regsUpTo x))

/-- LDHP Vx (R198): HpIndexRange with x > 7, else V0 to Vx from the HP48 bytes. -/
def execLdhp (x : RegIdx) (s : State) : Result :=
  if x.val > 7 then .next (s.raise .hpIndexRange (encode (.ldhp x))) else .next (s.loadHp (regsUpTo x))

end Sys2Proof.Machine
end

