-- ==== Sys2Proof/Machine/Framebuffer.lean ====
section
/-! DEFINITION. The framebuffer compositor, the sprite-row unpacker and the resolution controller
(45_draw_framebuffer.md R160 to R169). The events to the display sink are not modelled (R168; log 12). -/
namespace Sys2Proof.Machine

/-- `W` (10_state.md R31). -/
def Mode.width : Mode → Nat
  | .chip => 64
  | .schip => 128

/-- `H` (10_state.md R31). -/
def Mode.height : Mode → Nat
  | .chip => 32
  | .schip => 64

/-- Whether (x, y) lies in the mode rectangle (45_draw_framebuffer.md R160). -/
def Mode.inRect (m : Mode) (x y : Nat) : Bool := decide (x < m.width) && decide (y < m.height)

/-! ### The grid -/

/-- The row y of the grid; no pixel is set in a row outside it, where no instruction looks (log 15). -/
def Fb.row (fb : Fb) (y : Nat) : BitVec 128 := fb[y]?.getD 0#128

/-- `FB[y][x]` (10_state.md R33). -/
def Fb.pixel (fb : Fb) (x y : Nat) : Bool := (Fb.row fb y).getLsbD x

/-- FbDrawPixel on a row: the pixel in column x is set to a value (45_draw_framebuffer.md R163). -/
def rowSet (row : BitVec 128) (x : Nat) (b : Bool) : BitVec 128 :=
  if b then row ||| BitVec.twoPow 128 x else row &&& ~~~(BitVec.twoPow 128 x)

/-- The number whose bits 0 to n - 1 are given by a function. -/
def bitsBelow (f : Nat → Bool) : Nat → Nat
  | 0 => 0
  | n + 1 => (if f n then 2 ^ n else 0) + bitsBelow f n

/-- The grid whose pixel at (x, y) is f x y, all pixels at once. -/
def Fb.tabulate (f : Nat → Nat → Bool) : Fb :=
  Vector.ofFn fun y => BitVec.ofNat 128 (bitsBelow (fun x => f x y.val) 128)

/-- The grid with every pixel unset. -/
def Fb.blank : Fb := Vector.replicate 64 0#128

/-! ### Unpacker and row compositor -/

/-- `Unpack(bits, cnt)`: `b[i] = bits[cnt - 1 - i]`, most significant first (45_draw_framebuffer.md R161). -/
def unpack {cnt : Nat} (bits : BitVec cnt) : List Bool :=
  (List.range cnt).map fun i => bits.getLsbD (cnt - 1 - i)

/-- The loop of FbDrawLine on its row, from column `px` on, over the sprite bits left: XOR inside the mode rectangle, a
collision where an old pixel and its sprite bit are both 1, a column at or past W dropped (45_draw_framebuffer.md
R164). -/
def drawBits (m : Mode) : List Bool → Nat → BitVec 128 × Bool → BitVec 128 × Bool
  | [], _, acc => acc
  | b :: bs, px, acc =>
    if px < m.width then
      drawBits m bs (px + 1)
        (rowSet acc.1 px (acc.1.getLsbD px ^^ b), acc.2 || (acc.1.getLsbD px && b))
    else drawBits m bs (px + 1) acc

/-- `FbDrawLine(x, y, bits, cnt) -> collision` (45_draw_framebuffer.md R164). -/
def Fb.drawLine (m : Mode) (fb : Fb) (x y : Nat) {cnt : Nat} (bits : BitVec cnt) : Fb × Bool :=
  let d := drawBits m (unpack bits) x (Fb.row fb y, false)
  (fb.setIfInBounds y d.1, d.2)

/-! ### Whole-grid operations -/

/-- FbScrollDown(n) (45_draw_framebuffer.md R165). -/
def Fb.scrollDown (m : Mode) (n : Nat) (fb : Fb) : Fb :=
  Fb.tabulate fun x y =>
    if m.inRect x y then (if n ≤ y then Fb.pixel fb x (y - n) else false) else Fb.pixel fb x y

/-- FbScrollRight(n) (45_draw_framebuffer.md R166). -/
def Fb.scrollRight (m : Mode) (n : Nat) (fb : Fb) : Fb :=
  Fb.tabulate fun x y =>
    if m.inRect x y then (if n ≤ x then Fb.pixel fb (x - n) y else false) else Fb.pixel fb x y

/-- FbScrollLeft(n) (45_draw_framebuffer.md R167). -/
def Fb.scrollLeft (m : Mode) (n : Nat) (fb : Fb) : Fb :=
  Fb.tabulate fun x y =>
    if m.inRect x y then (if x + n < m.width then Fb.pixel fb (x + n) y else false) else Fb.pixel fb x y

/-! ### On the state -/

/-- The framebuffer replaced. -/
def State.setFb (s : State) (fb : Fb) : State := { s with fb := fb }

/-- FbSetMode(m): the mode changes, no pixel does (45_draw_framebuffer.md R162). -/
def State.setMode (s : State) (m : Mode) : State := { s with mode := m }

/-- FbClear(): the whole backing grid, in either mode (45_draw_framebuffer.md R169). -/
def State.fbClear (s : State) : State := s.setFb Fb.blank

end Sys2Proof.Machine
end

