-- ==== Sys2Proof/Machine/Draw.lean ====
section
/-! DEFINITION. The draw instructions (45_draw_framebuffer.md R170 to R172). -/
namespace Sys2Proof.Machine

/-- The rows of a sprite, in the order given: row r at `(vy + r) mod H` (R172). -/
def Fb.drawRows (m : Mode) (x0 vy : Nat) {cnt : Nat} (sprite : Nat → BitVec cnt) : List Nat → Fb × Bool → Fb × Bool
  | [], acc => acc
  | r :: rs, acc =>
    Fb.drawRows m x0 vy sprite rs
      ((Fb.drawLine m acc.1 x0 ((vy + r) % m.height) (sprite r)).1,
        acc.2 || (Fb.drawLine m acc.1 x0 ((vy + r) % m.height) (sprite r)).2)

/-- `Draw(x, y, rows, cnt)`: the start column is Vx mod W, both coordinates read before VF is written; VF is 1 iff some
row collided, else 0 (R172). -/
def State.draw (s : State) (x y : RegIdx) (rows : Nat) {cnt : Nat} (sprite : Nat → BitVec cnt) : State :=
  let d := Fb.drawRows s.mode ((s.getV x).toNat % s.mode.width) (s.getV y).toNat sprite (List.range rows) (s.fb, false)
  (s.setFb d.1).setV flagReg (flagByte d.2)

/-- Row r of an 8-bit sprite: the byte at I + r (R172). -/
def State.spriteRow8 (s : State) (r : Nat) : BitVec 8 := s.memRead (s.ea r)

/-- Row r of a 16-bit sprite: the bytes at I + 2r and I + 2r + 1, the lower address on the left (R171, R172). -/
def State.spriteRow16 (s : State) (r : Nat) : BitVec 16 := s.memRead (s.ea (2 * r)) ++ s.memRead (s.ea (2 * r + 1))

/-- DRW Vx, Vy, n (R170): n rows of 8 bits. -/
def execDrw (x y : RegIdx) (n : Nibble) (s : State) : Result := .next (s.draw x y n.toNat s.spriteRow8)

/-- DRW16 Vx, Vy (R171): 16 rows of 16 bits, in either mode. -/
def execDrw16 (x y : RegIdx) (s : State) : Result := .next (s.draw x y 16 s.spriteRow16)

end Sys2Proof.Machine
end

