-- ==== Sys2Proof/Machine/Flow.lean ====
section
/-! DEFINITION. Jump, call and compare-skip (42_jump_call_skip.md) and the indexed jump (44_index_jump_random.md R152).
In a body PC is the address of the following instruction (42_jump_call_skip.md R120). -/
namespace Sys2Proof.Machine

/-- JP nnn (R121): `PC <- nnn`. -/
def execJp (nnn : Addr) (s : State) : Result := .next (s.setPc (pcOf nnn.toNat))

/-- CALL nnn (R122): StackOverflow with SP = 16, else push PC and `PC <- nnn`. -/
def execCall (nnn : Addr) (s : State) : Result :=
  if h : s.sp.val < 16 then .next ((s.pushPc h).setPc (pcOf nnn.toNat))
  else .next (s.raise .stackOverflow (encode (.call nnn)))

/-- SEI Vx, nn (R123): `Skip(V[x] = nn)`. -/
def execSei (x : RegIdx) (nn : Byte) (s : State) : Result := .next (s.skipIf (s.getV x == nn))

/-- SNEI Vx, nn (R124): `Skip(V[x] != nn)`. -/
def execSnei (x : RegIdx) (nn : Byte) (s : State) : Result := .next (s.skipIf (s.getV x != nn))

/-- SER Vx, Vy (R125): `Skip(V[x] = V[y])`. -/
def execSer (x y : RegIdx) (s : State) : Result := .next (s.skipIf (s.getV x == s.getV y))

/-- SNER Vx, Vy (R126): `Skip(V[x] != V[y])`. -/
def execSner (x y : RegIdx) (s : State) : Result := .next (s.skipIf (s.getV x != s.getV y))

/-- JPV0 nnn (R152): `PC <- (zext_16(V[0]) + nnn) mod 4096`. -/
def execJpv0 (nnn : Addr) (s : State) : Result := .next (s.setPc (pcOf ((s.getV 0).toNat + nnn.toNat)))

end Sys2Proof.Machine
end

