-- ==== Sys2Proof/Machine/Index.lean ====
section
/-! DEFINITION. The index register's instructions (44_index_jump_random.md R151; 47_index_memory.md R191 to R193) and the
random byte (44_index_jump_random.md R153). -/
namespace Sys2Proof.Machine

/-- LDIX nnn (R151): `I <- nnn`. -/
def execLdix (nnn : Addr) (s : State) : Result := .next (s.setI nnn.toNat)

/-- RND Vx, nn (R153): one random byte is drawn, `V[x] <- nn & r`. -/
def execRnd (x : RegIdx) (nn : Byte) (s : State) : Result := .next (s.drawnRnd.setV x (nn &&& s.rndByte))

/-- ADDIX Vx (R191): `I <- (I + Vx) mod 4096`, VF = 1 iff the sum overflows 12 bits. -/
def execAddix (x : RegIdx) (s : State) : Result :=
  .next ((s.setI (s.i.toNat + (s.getV x).toNat)).setV flagReg (addixFlag s.i (s.getV x)))

/-- FONT Vx (R192): `I <- 5 * Vx`, the whole byte used. -/
def execFont (x : RegIdx) (s : State) : Result := .next (s.setI (5 * (s.getV x).toNat))

/-- FONT10 Vx (R193): `I <- 0x50 + 10 * Vx`, the whole byte used. -/
def execFont10 (x : RegIdx) (s : State) : Result := .next (s.setI (0x50 + 10 * (s.getV x).toNat))

end Sys2Proof.Machine
end

