-- ==== Sys2Proof/Machine/Input.lean ====
section
/-! DEFINITION. The key and timer instructions (46_keys_timers.md). -/
namespace Sys2Proof.Machine

/-- SKP Vx (R181): the key state is sampled once, `Skip(KeyDown(V[x]))`. -/
def execSkp (x : RegIdx) (s : State) : Result := .next (s.drawnKeyDown.skipIf (s.keyDown (s.getV x)))

/-- SKNP Vx (R182): the key state is sampled once, `Skip(not KeyDown(V[x]))`. -/
def execSknp (x : RegIdx) (s : State) : Result := .next (s.drawnKeyDown.skipIf (!s.keyDown (s.getV x)))

/-- GETDT Vx (R183): `V[x] <- DT`, before this step's tick. -/
def execGetdt (x : RegIdx) (s : State) : Result := .next (s.setV x s.dt)

/-- WKEY Vx (R185): the first poll of the key handshake; later ones are the step's own. -/
def execWkey (x : RegIdx) (s : State) : Result := .next (s.awaitKey x)

/-- SETDT Vx (R184): `DT <- V[x]`. -/
def execSetdt (x : RegIdx) (s : State) : Result := .next (s.setDt (s.getV x))

/-- SETST Vx (R186): `ST <- V[x]`. -/
def execSetst (x : RegIdx) (s : State) : Result := .next (s.setSt (s.getV x))

end Sys2Proof.Machine
end

