-- ==== Sys2Proof/Machine/System.lean ====
section
/-! DEFINITION. The 0x00.. family: clear, return, scroll, exit, mode switch (41_system_display_control.md). -/
namespace Sys2Proof.Machine

/-- CLS (R110): FbClear(); Show(). -/
def execCls (s : State) : Result := .next s.fbClear

/-- RET (R111): StackUnderflow with SP = 0, else pop into PC. -/
def execRet (s : State) : Result :=
  if h : 0 < s.sp.val then .next (s.popPc h) else .next (s.raise .stackUnderflow (encode .ret))

/-- SCD n (R112): FbScrollDown(n); Show(). -/
def execScd (n : Nibble) (s : State) : Result := .next (s.setFb (Fb.scrollDown s.mode n.toNat s.fb))

/-- SCR (R113): FbScrollRight(4); Show(). -/
def execScr (s : State) : Result := .next (s.setFb (Fb.scrollRight s.mode 4 s.fb))

/-- SCL (R114): FbScrollLeft(4); Show(). -/
def execScl (s : State) : Result := .next (s.setFb (Fb.scrollLeft s.mode 4 s.fb))

/-- EXIT (R115): `HALT <- 1`. -/
def execExit (s : State) : Result := .next { s with halt := true }

/-- LOW (R116): FbSetMode(CHIP). -/
def execLow (s : State) : Result := .next (s.setMode .chip)

/-- HIGH (R117): FbSetMode(SCHIP). -/
def execHigh (s : State) : Result := .next (s.setMode .schip)

end Sys2Proof.Machine
end

