-- ==== Sys2Proof/Machine/Dispatch.lean ====
section
/-! DEFINITION. The meaning of every instruction: one arm per row of the opcode map (30_encoding.md R75). -/
namespace Sys2Proof.Machine

/-- The body of one instruction, on the state after the pre-advance (40_step_cycle.md R103). -/
def exec (i : Instr) (s : State) : Host.Outcome State Fault Refusal :=
  match i with
  | .cls => Sys2Proof.Machine.execCls s
  | .ret => Sys2Proof.Machine.execRet s
  | .scd n => Sys2Proof.Machine.execScd n s
  | .scr => Sys2Proof.Machine.execScr s
  | .scl => Sys2Proof.Machine.execScl s
  | .exit => Sys2Proof.Machine.execExit s
  | .low => Sys2Proof.Machine.execLow s
  | .high => Sys2Proof.Machine.execHigh s
  | .jp nnn => Sys2Proof.Machine.execJp nnn s
  | .call nnn => Sys2Proof.Machine.execCall nnn s
  | .sei x nn => Sys2Proof.Machine.execSei x nn s
  | .snei x nn => Sys2Proof.Machine.execSnei x nn s
  | .ser x y => Sys2Proof.Machine.execSer x y s
  | .sner x y => Sys2Proof.Machine.execSner x y s
  | .ldi x nn => Sys2Proof.Machine.execLdi x nn s
  | .addi x nn => Sys2Proof.Machine.execAddi x nn s
  | .mov x y => Sys2Proof.Machine.execMov x y s
  | .or x y => Sys2Proof.Machine.execOr x y s
  | .and x y => Sys2Proof.Machine.execAnd x y s
  | .xor x y => Sys2Proof.Machine.execXor x y s
  | .add x y => Sys2Proof.Machine.execAdd x y s
  | .sub x y => Sys2Proof.Machine.execSub x y s
  | .shr x y => Sys2Proof.Machine.execShr x y s
  | .subn x y => Sys2Proof.Machine.execSubn x y s
  | .shl x y => Sys2Proof.Machine.execShl x y s
  | .ldix nnn => Sys2Proof.Machine.execLdix nnn s
  | .jpv0 nnn => Sys2Proof.Machine.execJpv0 nnn s
  | .rnd x nn => Sys2Proof.Machine.execRnd x nn s
  | .drw x y n => Sys2Proof.Machine.execDrw x y n s
  | .drw16 x y => Sys2Proof.Machine.execDrw16 x y s
  | .skp x => Sys2Proof.Machine.execSkp x s
  | .sknp x => Sys2Proof.Machine.execSknp x s
  | .getdt x => Sys2Proof.Machine.execGetdt x s
  | .wkey x => Sys2Proof.Machine.execWkey x s
  | .setdt x => Sys2Proof.Machine.execSetdt x s
  | .setst x => Sys2Proof.Machine.execSetst x s
  | .addix x => Sys2Proof.Machine.execAddix x s
  | .font x => Sys2Proof.Machine.execFont x s
  | .font10 x => Sys2Proof.Machine.execFont10 x s
  | .bcd x => Sys2Proof.Machine.execBcd x s
  | .stm x => Sys2Proof.Machine.execStm x s
  | .ldm x => Sys2Proof.Machine.execLdm x s
  | .sthp x => Sys2Proof.Machine.execSthp x s
  | .ldhp x => Sys2Proof.Machine.execLdhp x s

end Sys2Proof.Machine
end

