-- ==== Sys2Proof/Machine/Outputs.lean ====
section
/-! DEFINITION. What the outside can read of the machine: the status outputs and the read-only debug ports
(00_scope.md R12, R14; 60_exceptions.md R201). Nothing here changes the state. -/
namespace Sys2Proof.Machine

/-- The cause code of a fatal condition (60_exceptions.md R201). -/
def causeCode : FatalCause → BitVec 3
  | .unknownOpcode => 1#3
  | .stackOverflow => 2#3
  | .stackUnderflow => 3#3
  | .hpIndexRange => 4#3

/-- `halted`, that is `is_finished()` (00_scope.md R12). -/
def State.halted (s : State) : Bool := s.halt

/-- `fault_valid = (FAULT != none)` (60_exceptions.md R201). -/
def State.faultValid (s : State) : Bool := s.fault.isSome

/-- `fault_code[2:0]`, 0 when no fault is latched (60_exceptions.md R201). -/
def State.faultCode (s : State) : BitVec 3 :=
  match s.fault with
  | none => 0#3
  | some r => causeCode r.cause

/-- `fault_opcode[15:0]`; the spec gives it no value when no fault is latched (60_exceptions.md R201; log 16). -/
def State.faultOpcode (s : State) : Option Word := s.fault.map (·.op)

/-- The faulting instruction's address, PC - 2 mod 4096 at the time of the fault (60_exceptions.md R201). -/
def State.faultAddress (s : State) : Word := pcOf (s.pc.toNat + Config.memSize - 2)

/-- `dbg_v(i)` (00_scope.md R14). -/
def State.dbgV (s : State) (r : RegIdx) : Byte := s.getV r

/-- `dbg_mem(a)` (00_scope.md R14). -/
def State.dbgMem (s : State) (a : Addr) : Byte := s.memRead a.toNat

/-- `dbg_pc` (00_scope.md R14). -/
def State.dbgPc (s : State) : Word := s.pc

/-- `dbg_i` (00_scope.md R14). -/
def State.dbgI (s : State) : Addr := s.i

end Sys2Proof.Machine
end

