-- ==== Sys2Proof/Machine/Step.lean ====
section
/-! DEFINITION. One step: gate, fetch, pre-advance, decode and execute, timer phase (40_step_cycle.md R100 to R108). -/
namespace Sys2Proof.Machine

/-- One step. A halted or faulted core does nothing (R108); a core that waits in Fx0A polls the key handshake again
(46_keys_timers.md R185); otherwise the word at PC is fetched (R101), PC pre-advanced (R102), and the word decoded and
its body run (R103), an illegal word raising UnknownOpcode; the timer phase follows a completed body (R104). -/
def step (s : State) : Host.Outcome State Fault Refusal :=
  if s.stopped then .next s
  else
    match s.wait with
    | some x => .next (s.awaitKey x).timerPhase
    | none =>
      match decode s.fetch with
      | none => .next (s.preAdvance.raise .unknownOpcode s.fetch)
      | some i =>
        match exec i s.preAdvance with
        | .next t => .next t.timerPhase
        | .fault r => .fault r
        | .refused r => .refused r

/-- The state in which the next step fetches and runs the word `w` (log 9). -/
def State.withFetchWord (s : State) (nbits w : Nat) : State := s.placeWord (tableWord nbits w)

end Sys2Proof.Machine
end

