-- ==== Sys2Proof/Safety.lean ====
section
/-! DEFINITION. What a safe state is, and the words that the claims use: which word an instruction has, and the shapes of
an instruction's effect. Each shape says that `exec` answers a next state, what that state holds, and that everything
else, memory included, is as before. -/
namespace Sys2Proof.Machine

/-- The invariant of the step boundaries (10_state.md R37): PC below 4096, so the stack too, which holds only PC values
(R25); the memory list canonical; at most one of Halted and Faulted, and a key awaited only while Running
(60_exceptions.md R216). I below 4096 and SP at most 16 hold by their types. -/
structure State.Inv (s : State) : Prop where
  pc_lt : s.pc.toNat < 4096
  stack_lt : ∀ (k : Nat) (h : k < 16), s.stack[k].toNat < 4096
  mem_wf : Memory.wf s.mem
  not_both : s.halt = true → s.fault = none
  waiting_running : s.wait ≠ none → s.halt = false ∧ s.fault = none

/-- A core whose next step fetches: neither halted, nor faulted, nor inside a waiting Fx0A. -/
def State.Running (s : State) : Prop := s.halt = false ∧ s.fault = none ∧ s.wait = none

/-- The program counter after the pre-advance (40_step_cycle.md R102). -/
def State.pcPlus2 (s : State) : Word := BitVec.ofNat 16 ((s.pc.toNat + 2) % 4096)

/-- A fetch from p sees the byte b at the address a: as the word's high byte where a is p, as its low byte where a is p + 1
mod 4096 (20_memory.md R55). -/
def FetchSees (s : State) (p : Word) (a : Nat) (b : Byte) : Prop :=
  (a = p.toNat → hiByte { s with pc := p }.fetch = b) ∧
  (a = (p.toNat + 1) % 4096 → loByte { s with pc := p }.fetch = b)

/-- `n` steps, as long as they answer a next state. -/
def runSteps : Nat → State → Result
  | 0, s => .next s
  | n + 1, s =>
    match step s with
    | .next t => runSteps n t
    | .fault r => .fault r
    | .refused r => .refused r

/-- The instruction's word is the number n, and that word decodes to the instruction. -/
def Encodes (i : Instr) (n : Nat) : Prop := (encode i).toNat = n ∧ decode (BitVec.ofNat 16 n) = some i

/-- `exec` answers a next state in which register x holds b, every other register is as before, and nothing but the
registers has changed. -/
def WritesReg (i : Instr) (s : State) (x : RegIdx) (b : Byte) : Prop :=
  ∃ t, exec i s = .next t ∧ t.getV x = b ∧ (∀ q, q ≠ x → t.getV q = s.getV q) ∧ t = { s with v := t.v }

/-- `exec` answers a next state in which register x holds the result r and VF the flag f; with x = 15 VF holds one of the
two (43_alu.md R143). Every other register is as before, and nothing but the registers has changed, except that the open
choice of x = 15 is counted among the draws. -/
def WritesRegAndFlag (i : Instr) (s : State) (x : RegIdx) (r f : Byte) : Prop :=
  ∃ t, exec i s = .next t ∧
    (x ≠ 15 → t.getV x = r ∧ t.getV 15 = f ∧ t.draws = s.draws) ∧
    (x = 15 → (t.getV 15 = r ∨ t.getV 15 = f) ∧ t.draws = s.draws + 1) ∧
    (∀ q, q ≠ x → q ≠ 15 → t.getV q = s.getV q) ∧
    t = { s with v := t.v, draws := t.draws }

/-- `exec` answers a next state in which VF holds the flag f or the result r, as the free value of this execution says
(43_alu.md R143). -/
def FinalVf (i : Instr) (op : FlagOp) (s : State) (r f : Byte) : Prop :=
  ∃ t, exec i s = .next t ∧
    t.getV 15 =
      match Config.vfOrder op s.draws with
      | .flagLast => f
      | .resultLast => r

/-- `exec` answers the state with PC advanced by a further 2 mod 4096 if the condition holds, and the same state if not
(40_step_cycle.md R105). -/
def Skips (i : Instr) (s : State) (c : Prop) : Prop :=
  (c → exec i s = .next { s with pc := s.pcPlus2 }) ∧ (¬ c → exec i s = .next s)

/-- Whether a sprite of `rows` rows of `cnt` bits, drawn by V[x] and V[y], has a 1 over the pixel (px, py): row r falls on
the line (V[y] + r) mod H, bit c from the left on the column (V[x] mod W) + c, which is dropped from W on
(45_draw_framebuffer.md R164, R172). -/
def SpriteBitAt (s : State) (x y : RegIdx) (rows : Nat) {cnt : Nat} (row : Nat → BitVec cnt) (px py : Nat) : Prop :=
  px < s.mode.width ∧ ∃ r c, r < rows ∧ c < cnt ∧ px = (s.getV x).toNat % s.mode.width + c ∧
    py = ((s.getV y).toNat + r) % s.mode.height ∧ (row r).getLsbD (cnt - 1 - c) = true

/-- `exec` answers a next state in which exactly the pixels under a sprite bit are flipped, VF is 1 if one of them was set
before and 0 if not, and nothing else has changed (45_draw_framebuffer.md R172). -/
def Draws (i : Instr) (s : State) (x y : RegIdx) (rows : Nat) {cnt : Nat} (row : Nat → BitVec cnt) : Prop :=
  ∃ t, exec i s = .next t ∧
    (∀ px py, t.fb.pixel px py ≠ s.fb.pixel px py ↔ SpriteBitAt s x y rows row px py) ∧
    ((∃ px py, s.fb.pixel px py = true ∧ SpriteBitAt s x y rows row px py) → t.getV 15 = 1#8) ∧
    ((∀ px py, SpriteBitAt s x y rows row px py → s.fb.pixel px py = false) → t.getV 15 = 0#8) ∧
    (∀ q, q ≠ 15 → t.getV q = s.getV q) ∧
    t = { s with v := t.v, fb := t.fb }

/-- Whether an instruction may write VF: as a flag (10_state.md R21), or as the destination that it names (R22). -/
def mayWriteVf : Instr → Bool
  | .add _ _ | .sub _ _ | .shr _ _ | .subn _ _ | .shl _ _ | .drw _ _ _ | .drw16 _ _ | .addix _ => true
  | .ldi x _ | .addi x _ | .mov x _ | .or x _ | .and x _ | .xor x _ | .rnd x _ => x == 15
  | .getdt x | .wkey x | .ldm x => x == 15
  | .cls | .ret | .scd _ | .scr | .scl | .exit | .low | .high => false
  | .jp _ | .call _ | .sei _ _ | .snei _ _ | .ser _ _ | .sner _ _ | .ldix _ | .jpv0 _ => false
  | .skp _ | .sknp _ | .setdt _ | .setst _ | .font _ | .font10 _ | .bcd _ | .stm _ | .sthp _ | .ldhp _ => false

/-- Whether an instruction reads or writes MODE: the scrolls, the draws and the two mode switches (10_state.md R31). -/
def usesMode : Instr → Bool
  | .scd _ | .scr | .scl | .low | .high | .drw _ _ _ | .drw16 _ _ => true
  | .cls | .ret | .exit | .jp _ | .call _ | .sei _ _ | .snei _ _ | .ser _ _ | .sner _ _ => false
  | .ldi _ _ | .addi _ _ | .mov _ _ | .or _ _ | .and _ _ | .xor _ _ => false
  | .add _ _ | .sub _ _ | .shr _ _ | .subn _ _ | .shl _ _ | .ldix _ | .jpv0 _ | .rnd _ _ => false
  | .skp _ | .sknp _ | .getdt _ | .wkey _ | .setdt _ | .setst _ => false
  | .addix _ | .font _ | .font10 _ | .bcd _ | .stm _ | .ldm _ | .sthp _ | .ldhp _ => false

end Sys2Proof.Machine
end

