-- ==== Sys2Proof/Certificates/Slice0/Obligations.lean ====
section
/-! DEFINITION. The statements for the provers. "log <n>" is the assumption log's row. -/

open Sys2Proof Sys2Proof.Machine

/-! ### Encoding -/

/-- Every well-formed instruction decodes from its own word, with every operand (30_encoding.md R72 to R76; that the terms
keep the y field of SHR and SHL, and that DRW with n = 0 is no well-formed term, is log 18). -/
def Obligations.DecodeEncode : Prop := ∀ i : Instr, i.wf = true → decode (encode i) = some i

/-- A word has at most one meaning: what decodes is well-formed and has that very word. That every word encodes back rests on
the terms of SHR and SHL keeping their y field, the model's choice (log 18); that the other bits are fixed, on the exact
match of 30_encoding.md R76, the spec's own reading D11 (log 4). -/
def Obligations.EncodeDecode : Prop := ∀ (op : Word) (i : Instr), decode op = some i → encode i = op ∧ i.wf = true

/-- The illegal words are those of the table of 30_encoding.md R77, row by row (the table's counts are not stated). The exact
match is the spec's own reading (D11; log 4). -/
def Obligations.IllegalWords : Prop :=
  ∀ op : Word, decode op = none ↔
    (nibble3 op = 0x0#4 ∧ ¬ (nibble2 op = 0x0#4 ∧
      (nibble1 op = 0xC#4 ∨ loByte op = 0xE0#8 ∨ loByte op = 0xEE#8 ∨ loByte op = 0xFB#8 ∨ loByte op = 0xFC#8 ∨
        loByte op = 0xFD#8 ∨ loByte op = 0xFE#8 ∨ loByte op = 0xFF#8))) ∨
    (nibble3 op = 0x5#4 ∧ nibble0 op ≠ 0x0#4) ∨
    (nibble3 op = 0x8#4 ∧ (nibble0 op = 0x8#4 ∨ nibble0 op = 0x9#4 ∨ nibble0 op = 0xA#4 ∨ nibble0 op = 0xB#4 ∨
      nibble0 op = 0xC#4 ∨ nibble0 op = 0xD#4 ∨ nibble0 op = 0xF#4)) ∨
    (nibble3 op = 0x9#4 ∧ nibble0 op ≠ 0x0#4) ∨
    (nibble3 op = 0xE#4 ∧ loByte op ≠ 0x9E#8 ∧ loByte op ≠ 0xA1#8) ∨
    (nibble3 op = 0xF#4 ∧ ∀ b ∈ [0x07#8, 0x0A#8, 0x15#8, 0x18#8, 0x1E#8, 0x29#8, 0x30#8, 0x33#8, 0x55#8, 0x65#8, 0x75#8,
      0x85#8], loByte op ≠ b)

/-- A few words written out from the spec's encodings decode to the instructions they stand for (30_encoding.md R75). -/
def Obligations.DecodeSampleWords : Prop :=
  decode 0b0000000011000011#16 = some (.scd 3) ∧ decode 0b0010001000001010#16 = some (.call 0x20A) ∧
  decode 0b0011000100000100#16 = some (.sei 1 4) ∧ decode 0b1000001001010100#16 = some (.add 2 5) ∧
  decode 0b1010111111111111#16 = some (.ldix 0xFFF) ∧ decode 0b1101000000010010#16 = some (.drw 0 1 2) ∧
  decode 0b1101000000010000#16 = some (.drw16 0 1) ∧ decode 0b1110001010011110#16 = some (.skp 2) ∧
  decode 0b1111110000011110#16 = some (.addix 12) ∧ decode 0b1111001001100101#16 = some (.ldm 2)

/-! ### The step cycle -/

/-- A running core executes the instruction that its word decodes to, on the pre-advanced state, and then the timer phase
(40_step_cycle.md R103). -/
def Obligations.StepRunsDecoded : Prop :=
  ∀ (s : State) (i : Instr), s.Running → decode s.fetch = some i →
    step s =
      match exec i { s with pc := s.pcPlus2 } with
      | .next t => .next t.timerPhase
      | .fault r => .fault r
      | .refused r => .refused r

/-- The word fetched is the byte at PC as the high byte and the byte at PC + 1 mod 4096 as the low one, both read from the
memory at the start of the step (40_step_cycle.md R101, 20_memory.md R55); the wrap of the second address is the spec's own
decision D6 (log 4). -/
def Obligations.FetchIsBigEndian : Prop :=
  ∀ (s : State), s.pc.toNat < 4096 →
    s.fetch.toNat = (Memory.read s.mem s.pc.toNat).toNat * 256 + (Memory.read s.mem ((s.pc.toNat + 1) % 4096)).toNat

/-- The timer phase: after a completed body both timers go down by one while nonzero, independently; after a fatal
condition, or while a key is awaited, nothing happens (40_step_cycle.md R104, R107; 46_keys_timers.md R185). The last
two are the spec's own decisions D26 and D22 (log 4). -/
def Obligations.TimerPhase : Prop :=
  ∀ s : State,
    (s.fault = none → s.wait = none → s.timerPhase.dt.toNat = s.dt.toNat - 1 ∧ s.timerPhase.st.toNat = s.st.toNat - 1 ∧
      s.timerPhase = { s with dt := s.timerPhase.dt, st := s.timerPhase.st }) ∧
    (s.fault ≠ none ∨ s.wait ≠ none → s.timerPhase = s)

/-- A word that no row matches: UnknownOpcode with that word is latched, PC is PC0 + 2, nothing else changes
(60_exceptions.md R202, 40_step_cycle.md R107); the latch, the PC and the skipped timer phase are the spec's own decision
D26 (log 4). -/
def Obligations.IllegalWordIsFatal : Prop :=
  ∀ s : State, s.Running → decode s.fetch = none →
    step s = .next { s with pc := s.pcPlus2, fault := some { cause := .unknownOpcode, op := s.fetch } }

/-- A halted or faulted core does nothing (40_step_cycle.md R108, the spec's own decision D27; log 4). -/
def Obligations.StoppedCoreDoesNothing : Prop := ∀ s : State, s.halt = true ∨ s.fault ≠ none → step s = .next s

/-- A step that raises a fatal condition writes PC0 + 2 and the latch and nothing else, the timers included; the latch
holds the fetched word and the condition whose rule it is; the core does nothing more (40_step_cycle.md R107,
60_exceptions.md R207; the conditions: R201). The latch, the skipped timer phase and the conditions of stack and HP48 are
the spec's own decisions D26, D9, D24 (log 4). -/
def Obligations.FatalEntry : Prop :=
  ∀ (s t : State) (r : FaultRecord), step s = .next t → s.fault = none → t.fault = some r →
    s.Running ∧ t = { s with pc := s.pcPlus2, fault := some r } ∧ r.op = s.fetch ∧ step t = .next t ∧
    match r.cause with
    | .unknownOpcode => decode s.fetch = none
    | .stackOverflow => s.sp.val = 16 ∧ ∃ nnn, decode s.fetch = some (.call nnn)
    | .stackUnderflow => s.sp.val = 0 ∧ decode s.fetch = some .ret
    | .hpIndexRange => ∃ x : RegIdx, 7 < x.val ∧ (decode s.fetch = some (.sthp x) ∨ decode s.fetch = some (.ldhp x))

/-- The halt flag is set by EXIT only and no step clears it (10_state.md R30). -/
def Obligations.HaltOnlyByExit : Prop :=
  ∀ s t : State, step s = .next t →
    (s.halt = false → t.halt = true → s.Running ∧ decode s.fetch = some .exit) ∧ (s.halt = true → t.halt = true) ∧
    t.halted = t.halt

/-- Every step of every state answers a next state: no data, no word and no address ends a run (60_exceptions.md R200,
R217; that a fatal condition is a next state is log 11). -/
def Obligations.StepAlwaysAnswers : Prop := ∀ s : State, ∃ t, step s = .next t

/-- Every step keeps the invariant (10_state.md R37, R25; 60_exceptions.md R216). Its clause mem_wf, the canonical form of the
memory list, is of the model's representation and no rule's (log 14). -/
def Obligations.StepKeepsInv : Prop := ∀ s t : State, s.Inv → step s = .next t → t.Inv

/-- The invariant holds after reset (10_state.md R37, R40). Its clause mem_wf, the canonical form of the memory list, is of the
model's representation and no rule's (log 14). -/
def Obligations.ResetHasInv : Prop := State.reset.Inv

/-- Both timers only fall, by at most one a step, unless the instruction that sets them runs (10_state.md R27, R28,
60_exceptions.md R212). -/
def Obligations.TimersOnlyFall : Prop :=
  ∀ s t : State, step s = .next t →
    ((∀ x, ¬ (s.Running ∧ decode s.fetch = some (.setdt x))) →
      t.dt.toNat ≤ s.dt.toNat ∧ s.dt.toNat ≤ t.dt.toNat + 1) ∧
    ((∀ x, ¬ (s.Running ∧ decode s.fetch = some (.setst x))) →
      t.st.toNat ≤ s.st.toNat ∧ s.st.toNat ≤ t.st.toNat + 1)

/-- Who writes what: each piece of state is changed only by the instructions that the table of 10_state.md R36, R29, R33
and 20_memory.md R57 name for it. That BCD, STM and LDM are no writers of I is the spec's own decision D23 (log 4). -/
def Obligations.StateWriters : Prop :=
  ∀ s t : State, step s = .next t →
    (t.i ≠ s.i → s.Running ∧ ((∃ nnn, decode s.fetch = some (.ldix nnn)) ∨ ∃ x, decode s.fetch = some (.addix x) ∨
      decode s.fetch = some (.font x) ∨ decode s.fetch = some (.font10 x))) ∧
    (t.sp ≠ s.sp → s.Running ∧ ((∃ nnn, decode s.fetch = some (.call nnn)) ∨ decode s.fetch = some .ret)) ∧
    (t.stack ≠ s.stack → s.Running ∧ ∃ nnn, decode s.fetch = some (.call nnn)) ∧
    (t.hp ≠ s.hp → s.Running ∧ ∃ x, decode s.fetch = some (.sthp x)) ∧
    (t.mode ≠ s.mode → s.Running ∧ (decode s.fetch = some .low ∨ decode s.fetch = some .high)) ∧
    (t.mem ≠ s.mem → s.Running ∧ ∃ x, decode s.fetch = some (.bcd x) ∨ decode s.fetch = some (.stm x)) ∧
    (t.fb ≠ s.fb → s.Running ∧ (decode s.fetch = some .cls ∨ (∃ n, decode s.fetch = some (.scd n)) ∨
      decode s.fetch = some .scr ∨ decode s.fetch = some .scl ∨ (∃ x y n, decode s.fetch = some (.drw x y n)) ∨
      ∃ x y, decode s.fetch = some (.drw16 x y)))

/-- VF keeps its value under every instruction that neither has a flag effect nor names VF as its destination
(10_state.md R21, R22, the spec's own decision D16; log 4). -/
def Obligations.FlagKept : Prop :=
  ∀ (i : Instr) (s t : State), mayWriteVf i = false → exec i s = .next t → t.getV 15 = s.getV 15

/-- Off-mode pixels are inert: no step but one of CLS changes a pixel outside the mode rectangle (10_state.md R33).
The rectangle's anchor is the spec's own decision D20; that a draw drops the columns past W is its decision D18
(45_draw_framebuffer.md R164; log 4). -/
def Obligations.OffModePixelsInert : Prop :=
  ∀ (s t : State) (x y : Nat), step s = .next t → ¬ (s.Running ∧ decode s.fetch = some .cls) →
    s.mode.inRect x y = false → t.fb.pixel x y = s.fb.pixel x y

/-- An instruction that does not use MODE, that is, no scroll, draw or mode switch, does the same in both modes
(30_encoding.md R79, the spec's own decision D10, log 4; 10_state.md R31). That SCD, SCR, SCL, LOW, HIGH, DRW and DRW16 run
in both modes too is said by ScrollDown, ScrollSideways, ExitLowHigh, DrawSprite and DrawSprite16. -/
def Obligations.ModeMattersToDisplayOnly : Prop :=
  ∀ (i : Instr) (s t : State) (m : Mode), usesMode i = false → exec i s = .next t →
    exec i (s.setMode m) = .next (t.setMode m)

/-! ### Register load and arithmetic -/

/-- LDI and MOV: one register gets the immediate, the other register; VF is written only as that register (43_alu.md R131,
R133). -/
def Obligations.LoadAndMove : Prop :=
  ∀ (x y : RegIdx) (nn : Byte) (s : State),
    (Encodes (.ldi x nn) (0x6000 + x.val * 256 + nn.toNat) ∧ WritesReg (.ldi x nn) s x nn) ∧
    (Encodes (.mov x y) (0x8000 + x.val * 256 + y.val * 16) ∧ WritesReg (.mov x y) s x (s.getV y))

/-- ADDI: the sum mod 256 (43_alu.md R132); that VF gets no carry is the spec's own decision D16 (10_state.md R22; log 4). -/
def Obligations.AddImmediate : Prop :=
  ∀ (x : RegIdx) (nn : Byte) (s : State),
    Encodes (.addi x nn) (0x7000 + x.val * 256 + nn.toNat) ∧
    WritesReg (.addi x nn) s x (BitVec.ofNat 8 (((s.getV x).toNat + nn.toNat) % 256))

/-- OR, AND, XOR: bit by bit (43_alu.md R134, R135, R136); that VF is not cleared is the spec's own decision D16
(10_state.md R22; log 4). -/
def Obligations.Logic : Prop :=
  ∀ (x y : RegIdx) (s : State),
    (Encodes (.or x y) (0x8001 + x.val * 256 + y.val * 16) ∧ WritesReg (.or x y) s x (s.getV x ||| s.getV y)) ∧
    (Encodes (.and x y) (0x8002 + x.val * 256 + y.val * 16) ∧ WritesReg (.and x y) s x (s.getV x &&& s.getV y)) ∧
    (Encodes (.xor x y) (0x8003 + x.val * 256 + y.val * 16) ∧ WritesReg (.xor x y) s x (s.getV x ^^^ s.getV y))

/-- ADD: the sum mod 256, VF = 1 iff 0xFF - Vx < Vy before the addition (43_alu.md R137). The x = 15 clause, VF holding one of
the two, is the point that 43_alu.md R143 leaves open (D15, log 4) in the model's form: a free choice for each execution,
which counts in the model's own field draws (log 5, log 10). -/
def Obligations.AddSetsCarry : Prop :=
  ∀ (x y : RegIdx) (s : State),
    Encodes (.add x y) (0x8004 + x.val * 256 + y.val * 16) ∧
    WritesRegAndFlag (.add x y) s x (BitVec.ofNat 8 (((s.getV x).toNat + (s.getV y).toNat) % 256))
      (if 0xFF - (s.getV x).toNat < (s.getV y).toNat then 1#8 else 0#8)

/-- SUB and SUBN: the difference mod 256, VF = 1 iff the minuend is strictly greater (43_alu.md R138, R140).
The flag of SUBN and the number 5 of SUB are the spec's own (D14, D12; log 4). The x = 15 clause, VF holding one of the two
and draws going up by one, is the open point of R143 (D15, log 4) in the model's form (log 5, log 10). -/
def Obligations.SubtractionsSetBorrow : Prop :=
  ∀ (x y : RegIdx) (s : State),
    (Encodes (.sub x y) (0x8005 + x.val * 256 + y.val * 16) ∧
      WritesRegAndFlag (.sub x y) s x (BitVec.ofNat 8 (((s.getV x).toNat + 256 - (s.getV y).toNat) % 256))
        (if (s.getV y).toNat < (s.getV x).toNat then 1#8 else 0#8)) ∧
    (Encodes (.subn x y) (0x8007 + x.val * 256 + y.val * 16) ∧
      WritesRegAndFlag (.subn x y) s x (BitVec.ofNat 8 (((s.getV y).toNat + 256 - (s.getV x).toNat) % 256))
        (if (s.getV x).toNat < (s.getV y).toNat then 1#8 else 0#8))

/-- SHR and SHL: Vx by one position, 0 shifted in, VF the bit shifted out, the y field without effect (43_alu.md R139,
R141). The operand Vx and the numbers 6 and E are the spec's own (D13, D12; log 4). The x = 15 clause, VF holding one of the
two and draws going up by one, is the open point of R143 (D15, log 4) in the model's form (log 5, log 10). -/
def Obligations.ShiftsSetBitOut : Prop :=
  ∀ (x y : RegIdx) (s : State),
    (Encodes (.shr x y) (0x8006 + x.val * 256 + y.val * 16) ∧
      WritesRegAndFlag (.shr x y) s x (BitVec.ofNat 8 ((s.getV x).toNat / 2)) (BitVec.ofNat 8 ((s.getV x).toNat % 2))) ∧
    (Encodes (.shl x y) (0x800E + x.val * 256 + y.val * 16) ∧
      WritesRegAndFlag (.shl x y) s x (BitVec.ofNat 8 ((s.getV x).toNat * 2 % 256))
        (BitVec.ofNat 8 ((s.getV x).toNat / 128)))

/-- The x = 15 case of the five operations, and it alone: result and flag, as 43_alu.md R137 to R141 give them, both go to VF,
computed from the old VF (R130), and the free value of this execution says which of the two is left there (R143, D15, log 4;
the form of the free choice is log 5). The flag of SUBN, the operand of the shifts and the numbers of SUB, SHR and SHL are
the spec's own (D14, D13, D12; log 4). -/
def Obligations.FlagRegisterAsDestination : Prop :=
  ∀ (y : RegIdx) (s : State),
    FinalVf (.add 15 y) .add s (s.getV 15 + s.getV y)
      (if 0xFF - (s.getV 15).toNat < (s.getV y).toNat then 1#8 else 0#8) ∧
    FinalVf (.sub 15 y) .sub s (s.getV 15 - s.getV y)
      (if (s.getV y).toNat < (s.getV 15).toNat then 1#8 else 0#8) ∧
    FinalVf (.shr 15 y) .shr s (BitVec.ofNat 8 ((s.getV 15).toNat / 2)) (BitVec.ofNat 8 ((s.getV 15).toNat % 2)) ∧
    FinalVf (.subn 15 y) .subn s (s.getV y - s.getV 15)
      (if (s.getV 15).toNat < (s.getV y).toNat then 1#8 else 0#8) ∧
    FinalVf (.shl 15 y) .shl s (BitVec.ofNat 8 ((s.getV 15).toNat * 2 % 256)) (BitVec.ofNat 8 ((s.getV 15).toNat / 128))

/-! ### Index register, random -/

/-- LDIX: I gets nnn; nothing else changes (44_index_jump_random.md R151). -/
def Obligations.IndexLoad : Prop :=
  ∀ (nnn : Addr) (s : State),
    Encodes (.ldix nnn) (0xA000 + nnn.toNat) ∧ exec (.ldix nnn) s = .next { s with i := nnn }

/-- FONT and FONT10: I gets 5 * Vx, 0x50 + 10 * Vx; nothing else changes (47_index_memory.md R192, R193); that the whole byte
is used, and that no mode gates FONT10, are the spec's own decisions D28, D10 (log 4). -/
def Obligations.FontAddresses : Prop :=
  ∀ (x : RegIdx) (s : State),
    (Encodes (.font x) (0xF029 + x.val * 256) ∧
      ∃ t, exec (.font x) s = .next t ∧ t.i.toNat = 5 * (s.getV x).toNat ∧ t = { s with i := t.i }) ∧
    (Encodes (.font10 x) (0xF030 + x.val * 256) ∧
      ∃ t, exec (.font10 x) s = .next t ∧ t.i.toNat = 0x50 + 10 * (s.getV x).toNat ∧ t = { s with i := t.i })

/-- ADDIX: I + Vx mod 4096, VF = 1 iff 0xFFF - Vx < I before the addition, also when x = 15 (47_index_memory.md R191). -/
def Obligations.AddIndexSetsFlag : Prop :=
  ∀ (x : RegIdx) (s : State),
    Encodes (.addix x) (0xF01E + x.val * 256) ∧
    ∃ t, exec (.addix x) s = .next t ∧ t.i.toNat = (s.i.toNat + (s.getV x).toNat) % 4096 ∧
      t.getV 15 = (if 0xFFF - (s.getV x).toNat < s.i.toNat then 1#8 else 0#8) ∧
      (∀ q, q ≠ 15 → t.getV q = s.getV q) ∧ t = { s with i := t.i, v := t.v }

/-- RND: one byte r is drawn and Vx is nn & r; no bit outside nn is set, and every value inside nn is possible
(44_index_jump_random.md R153; the draw's form is log 6). -/
def Obligations.RandomIsMasked : Prop :=
  ∀ (x : RegIdx) (nn : Byte) (s : State),
    Encodes (.rnd x nn) (0xC000 + x.val * 256 + nn.toNat) ∧
    (∃ t r, exec (.rnd x nn) s = .next t ∧ t.getV x = nn &&& r ∧ (t.getV x) &&& ~~~nn = 0#8 ∧
      (∀ b bs, s.inputs.rnd = b :: bs → r = b ∧ t.inputs.rnd = bs) ∧ (s.inputs.rnd = [] → r = Config.rnd s.draws) ∧
      (∀ q, q ≠ x → t.getV q = s.getV q) ∧ t = { s with v := t.v, inputs := t.inputs, draws := s.draws + 1 } ∧
      t.inputs = { s.inputs with rnd := t.inputs.rnd }) ∧
    (∀ v : Byte, v &&& ~~~nn = 0#8 → ∀ bs, s.inputs.rnd = v :: bs → ∃ t, exec (.rnd x nn) s = .next t ∧ t.getV x = v)

/-! ### Jump, call, return, skip -/

/-- JP and JPV0: PC gets nnn, V0 + nnn mod 4096; nothing else changes (42_jump_call_skip.md R121;
44_index_jump_random.md R152). -/
def Obligations.Jumps : Prop :=
  ∀ (nnn : Addr) (s : State),
    (Encodes (.jp nnn) (0x1000 + nnn.toNat) ∧ exec (.jp nnn) s = .next { s with pc := nnn.setWidth 16 }) ∧
    (Encodes (.jpv0 nnn) (0xB000 + nnn.toNat) ∧
      exec (.jpv0 nnn) s = .next { s with pc := BitVec.ofNat 16 (((s.getV 0).toNat + nnn.toNat) % 4096) })

/-- CALL: with SP below 16 the PC goes to STACK[SP], SP up by one, PC to nnn; with SP = 16 StackOverflow and nothing
written (42_jump_call_skip.md R122). The push order and the bound are the spec's own decisions D8, D9 (log 4). -/
def Obligations.CallPushes : Prop :=
  ∀ (nnn : Addr) (s : State),
    Encodes (.call nnn) (0x2000 + nnn.toNat) ∧
    (∀ (h : s.sp.val < 16), ∃ t, exec (.call nnn) s = .next t ∧ t.stack[s.sp.val] = s.pc ∧ t.sp.val = s.sp.val + 1 ∧
      t.pc = nnn.setWidth 16 ∧ (∀ (k : Nat) (hk : k < 16), k ≠ s.sp.val → t.stack[k] = s.stack[k]) ∧
      t = { s with stack := t.stack, sp := t.sp, pc := t.pc }) ∧
    (s.sp.val = 16 →
      exec (.call nnn) s =
        .next { s with fault := some { cause := .stackOverflow, op := BitVec.ofNat 16 (0x2000 + nnn.toNat) } })

/-- RET: with SP above 0 SP goes down by one and PC gets STACK[SP], the slot kept; with SP = 0 StackUnderflow and nothing
written (41_system_display_control.md R111). The pop order and the bound are the spec's own decisions D8, D9 (log 4). -/
def Obligations.ReturnPops : Prop :=
  ∀ s : State,
    Encodes .ret 0x00EE ∧
    (∀ (k : Nat) (h : k < 16), s.sp.val = k + 1 → ∃ t, exec .ret s = .next t ∧ t.sp.val = k ∧ t.pc = s.stack[k] ∧
      t = { s with sp := t.sp, pc := t.pc }) ∧
    (s.sp.val = 0 → exec .ret s = .next { s with fault := some { cause := .stackUnderflow, op := 0x00EE#16 } })

/-- SEI, SNEI, SER, SNER: skip on equal, unequal, to an immediate or a register (42_jump_call_skip.md R123 to R126). -/
def Obligations.CompareSkips : Prop :=
  ∀ (x y : RegIdx) (nn : Byte) (s : State),
    (Encodes (.sei x nn) (0x3000 + x.val * 256 + nn.toNat) ∧ Skips (.sei x nn) s (s.getV x = nn)) ∧
    (Encodes (.snei x nn) (0x4000 + x.val * 256 + nn.toNat) ∧ Skips (.snei x nn) s (s.getV x ≠ nn)) ∧
    (Encodes (.ser x y) (0x5000 + x.val * 256 + y.val * 16) ∧ Skips (.ser x y) s (s.getV x = s.getV y)) ∧
    (Encodes (.sner x y) (0x9000 + x.val * 256 + y.val * 16) ∧ Skips (.sner x y) s (s.getV x ≠ s.getV y))

/-- A RET right after a CALL resumes at the instruction after the call, with SP as before; the one slot written holds the
return address, every other slot and everything else is as before (42_jump_call_skip.md R122, 41_system_display_control.md
R111, 40_step_cycle.md R102); the stack discipline is the spec's own decision D8 (log 4). -/
def Obligations.CallThenReturn : Prop :=
  ∀ (nnn : Addr) (s : State) (h : s.sp.val < 16),
    ∃ t u, exec (.call nnn) s = .next t ∧ exec .ret t = .next u ∧ u.pc = s.pc ∧ u.sp = s.sp ∧
      u.stack[s.sp.val] = s.pc ∧ (∀ (k : Nat) (hk : k < 16), k ≠ s.sp.val → u.stack[k] = s.stack[k]) ∧
      u = { s with stack := u.stack }

/-! ### Display -/

/-- CLS: every pixel of the whole backing grid is unset, in either mode; nothing else changes
(41_system_display_control.md R110, 45_draw_framebuffer.md R169; the sink is log 12). -/
def Obligations.ClearScreen : Prop :=
  ∀ s : State, Encodes .cls 0x00E0 ∧
    ∃ t, exec .cls s = .next t ∧ (∀ x y, t.fb.pixel x y = false) ∧ t = { s with fb := t.fb }

/-- SCD n: inside the mode rectangle every pixel moves down n rows, the top n rows are unset; outside nothing changes
(41_system_display_control.md R112, 45_draw_framebuffer.md R165). The axes and that no mode gates it are the spec's
own decisions D20, D10 (log 4); the sink is log 12. -/
def Obligations.ScrollDown : Prop :=
  ∀ (n : Nibble) (s : State), Encodes (.scd n) (0x00C0 + n.toNat) ∧
    ∃ t, exec (.scd n) s = .next t ∧ t = { s with fb := t.fb } ∧
      (∀ x y, s.mode.inRect x y = true → t.fb.pixel x y = if n.toNat ≤ y then s.fb.pixel x (y - n.toNat) else false) ∧
      (∀ x y, s.mode.inRect x y = false → t.fb.pixel x y = s.fb.pixel x y)

/-- SCR and SCL: inside the mode rectangle every pixel moves 4 columns, the 4 columns left behind are unset; outside
nothing changes (41_system_display_control.md R113, R114; 45_draw_framebuffer.md R166, R167). The axes and that no
mode gates them are the spec's own decisions D20, D10 (log 4); the sink is log 12. -/
def Obligations.ScrollSideways : Prop :=
  ∀ s : State,
    (Encodes .scr 0x00FB ∧ ∃ t, exec .scr s = .next t ∧ t = { s with fb := t.fb } ∧
      (∀ x y, s.mode.inRect x y = true → t.fb.pixel x y = if 4 ≤ x then s.fb.pixel (x - 4) y else false) ∧
      (∀ x y, s.mode.inRect x y = false → t.fb.pixel x y = s.fb.pixel x y)) ∧
    (Encodes .scl 0x00FC ∧ ∃ t, exec .scl s = .next t ∧ t = { s with fb := t.fb } ∧
      (∀ x y, s.mode.inRect x y = true →
        t.fb.pixel x y = if x + 4 < s.mode.width then s.fb.pixel (x + 4) y else false) ∧
      (∀ x y, s.mode.inRect x y = false → t.fb.pixel x y = s.fb.pixel x y))

/-- EXIT sets the halt flag, LOW and HIGH set the mode and change no pixel; the step of EXIT is a completed one, after
which nothing runs, the spec's own decision D27; that no mode gates them is D10 (41_system_display_control.md R115, R116,
R117; log 4, the sink log 12). -/
def Obligations.ExitLowHigh : Prop :=
  ∀ s : State,
    (Encodes .exit 0x00FD ∧ exec .exit s = .next { s with halt := true } ∧
      (s.Running → decode s.fetch = some .exit →
        ∃ t, step s = .next t ∧ t.halt = true ∧ t.pc = s.pcPlus2 ∧ t.dt.toNat = s.dt.toNat - 1 ∧
          t.st.toNat = s.st.toNat - 1 ∧ step t = .next t)) ∧
    (Encodes .low 0x00FE ∧ exec .low s = .next { s with mode := .chip }) ∧
    (Encodes .high 0x00FF ∧ exec .high s = .next { s with mode := .schip }) ∧
    Mode.chip.width = 64 ∧ Mode.chip.height = 32 ∧ Mode.schip.width = 128 ∧ Mode.schip.height = 64

/-- DRW: n rows of one byte each, from (I + r) mod 4096 (45_draw_framebuffer.md R170, R172, R164).
The wrap of the sprite's addresses, the clipping at W and VF = 0 without a collision are the spec's own decisions D6, D18,
D17 (log 4). -/
def Obligations.DrawSprite : Prop :=
  ∀ (x y : RegIdx) (n : Nibble) (s : State),
    (n ≠ 0#4 → Encodes (.drw x y n) (0xD000 + x.val * 256 + y.val * 16 + n.toNat)) ∧
    Draws (.drw x y n) s x y n.toNat fun r => Memory.read s.mem ((s.i.toNat + r) % 4096)

/-- DRW16: 16 rows of two bytes each, from (I + 2r) mod 4096, in either mode (45_draw_framebuffer.md R171, R172). The
layout, the wrap of the addresses, the clipping, VF = 0 and that no mode gates it are the spec's own (D19, D6, D18, D17,
D10; log 4). -/
def Obligations.DrawSprite16 : Prop :=
  ∀ (x y : RegIdx) (s : State),
    Encodes (.drw16 x y) (0xD000 + x.val * 256 + y.val * 16) ∧
    Draws (.drw16 x y) s x y 16 fun r =>
      Memory.read s.mem ((s.i.toNat + 2 * r) % 4096) ++ Memory.read s.mem ((s.i.toNat + 2 * r + 1) % 4096)

/-! ### Keys and timers -/

/-- SKP and SKNP: the key state c for the whole byte Vx is sampled once; SKP skips on c, SKNP on not c. For Vx up to 15, c is
that bit of the sample of key_down; above 15 it is free (46_keys_timers.md R180, R181, R182; the free answer is the
spec's own decision D21, log 4; the sample's form is log 7). -/
def Obligations.KeySkips : Prop :=
  ∀ (x : RegIdx) (s : State),
    Encodes (.skp x) (0xE09E + x.val * 256) ∧ Encodes (.sknp x) (0xE0A1 + x.val * 256) ∧
    ∃ (c : Bool) (u : State),
      exec (.skp x) s = .next { u with pc := if c then s.pcPlus2 else s.pc } ∧
      exec (.sknp x) s = .next { u with pc := if c then s.pc else s.pcPlus2 } ∧
      (∀ sample rest, s.inputs.keyDown = sample :: rest → (s.getV x).toNat < 16 →
        c = sample.getLsbD (s.getV x).toNat) ∧
      u = { s with inputs := { s.inputs with keyDown := s.inputs.keyDown.tail }, draws := s.draws + 1 }

/-- GETDT, SETDT, SETST: a move between Vx and a timer, the rest unchanged; and what the whole step leaves, the timer phase
included (46_keys_timers.md R183, R184, R186). Which of the three words moves which way, and what the whole step leaves,
are the spec's own (D12 and its derivation from R104; log 4). -/
def Obligations.TimerMoves : Prop :=
  ∀ (x : RegIdx) (s : State),
    (Encodes (.getdt x) (0xF007 + x.val * 256) ∧ WritesReg (.getdt x) s x s.dt ∧
      (s.Running → decode s.fetch = some (.getdt x) →
        ∃ t, step s = .next t ∧ t.getV x = s.dt ∧ t.dt.toNat = s.dt.toNat - 1)) ∧
    (Encodes (.setdt x) (0xF015 + x.val * 256) ∧ exec (.setdt x) s = .next { s with dt := s.getV x } ∧
      (s.Running → decode s.fetch = some (.setdt x) →
        ∃ t, step s = .next t ∧ t.dt.toNat = (s.getV x).toNat - 1)) ∧
    (Encodes (.setst x) (0xF018 + x.val * 256) ∧ exec (.setst x) s = .next { s with st := s.getV x } ∧
      (s.Running → decode s.fetch = some (.setst x) →
        ∃ t, step s = .next t ∧ t.st.toNat = (s.getV x).toNat - 1))

/-- WKEY when the handshake delivers key k at once: Vx gets k, no key is awaited, nothing else changes
(46_keys_timers.md R185; the handshake's form is log 8). -/
def Obligations.KeyWaitCompletes : Prop :=
  ∀ (x : RegIdx) (k : Nibble) (rest : List (Option Nibble)) (s : State),
    Encodes (.wkey x) (0xF00A + x.val * 256) ∧
    (s.inputs.keyWait = some k :: rest →
      ∃ t, exec (.wkey x) s = .next t ∧ (t.getV x).toNat = k.toNat ∧ t.wait = none ∧
        (∀ q, q ≠ x → t.getV q = s.getV q) ∧
        t = { s with v := t.v, wait := none, inputs := { s.inputs with keyWait := rest }, draws := s.draws + 1 })

/-- WKEY after any delay: while the handshake gives no key, each step leaves all but the model's own fields as they are, the
timers too, with PC at PC0 + 2; with the key, Vx gets its index and the timers go down once, whatever the delay
(46_keys_timers.md R185, the spec's own decision D22, log 4; one poll a step is log 8). -/
def Obligations.KeyWaitAnyDelay : Prop :=
  ∀ (x : RegIdx) (k : Nibble) (rest : List (Option Nibble)) (n : Nat) (s : State),
    s.Running → decode s.fetch = some (.wkey x) →
    s.inputs.keyWait = List.replicate n none ++ some k :: rest →
    (∀ j, 1 ≤ j → j ≤ n → ∃ t, runSteps j s = .next t ∧
      t = { s with pc := s.pcPlus2, wait := some x, inputs := t.inputs, draws := s.draws + j }) ∧
    ∃ t, runSteps (n + 1) s = .next t ∧ (t.getV x).toNat = k.toNat ∧ (∀ q, q ≠ x → t.getV q = s.getV q) ∧
      t.dt.toNat = s.dt.toNat - 1 ∧ t.st.toNat = s.st.toNat - 1 ∧
      t = { s with
        pc := s.pcPlus2, v := t.v, dt := t.dt, st := t.st, inputs := { s.inputs with keyWait := rest },
        draws := s.draws + n + 1 }

/-! ### Block instructions -/

/-- BCD: hundreds, tens and ones of Vx at I, I + 1, I + 2 mod 4096; every other byte and everything else as before
(47_index_memory.md R194). Digit order, wrap and the kept I are the spec's own (D25, D6, D23; log 4). -/
def Obligations.BcdStoresDigits : Prop :=
  ∀ (x : RegIdx) (s : State),
    Encodes (.bcd x) (0xF033 + x.val * 256) ∧
    ∃ t, exec (.bcd x) s = .next t ∧
      (t.memRead (s.ea 0)).toNat = (s.getV x).toNat / 100 ∧
      (t.memRead (s.ea 1)).toNat = (s.getV x).toNat / 10 % 10 ∧
      (t.memRead (s.ea 2)).toNat = (s.getV x).toNat % 10 ∧
      (∀ a, a < 4096 → a ≠ s.ea 0 → a ≠ s.ea 1 → a ≠ s.ea 2 → t.memRead a = s.memRead a) ∧
      t = { s with mem := t.mem }

/-- STM: V0 to Vx at I to I + x mod 4096; every other byte and everything else, I included, as before
(47_index_memory.md R195, R190). Wrap and kept I are the spec's own (D6, D23; log 4). -/
def Obligations.BlockStore : Prop :=
  ∀ (x : RegIdx) (s : State),
    Encodes (.stm x) (0xF055 + x.val * 256) ∧
    ∃ t, exec (.stm x) s = .next t ∧
      (∀ k : RegIdx, k ≤ x → t.memRead (s.ea k.val) = s.getV k) ∧
      (∀ a, a < 4096 → (∀ k : RegIdx, k ≤ x → a ≠ s.ea k.val) → t.memRead a = s.memRead a) ∧
      t = { s with mem := t.mem }

/-- LDM: V0 to Vx from I to I + x mod 4096; every other register and everything else, I included, as before
(47_index_memory.md R196, R190). Wrap and kept I are the spec's own (D6, D23; log 4). -/
def Obligations.BlockLoad : Prop :=
  ∀ (x : RegIdx) (s : State),
    Encodes (.ldm x) (0xF065 + x.val * 256) ∧
    ∃ t, exec (.ldm x) s = .next t ∧
      (∀ k : RegIdx, k ≤ x → t.getV k = s.memRead (s.ea k.val)) ∧
      (∀ k : RegIdx, x < k → t.getV k = s.getV k) ∧ t = { s with v := t.v }

/-- STHP: V0 to Vx to HP[0] to HP[x], the other HP48 bytes and everything else as before; with x > 7 HpIndexRange and nothing
written (47_index_memory.md R197). The bound and that no mode gates it are the spec's own decisions D24, D10 (log 4). -/
def Obligations.HpStore : Prop :=
  ∀ (x : RegIdx) (s : State),
    Encodes (.sthp x) (0xF075 + x.val * 256) ∧
    (x.val ≤ 7 → ∃ t, exec (.sthp x) s = .next t ∧
      (∀ j : Fin 8, t.getHp j = if j.val ≤ x.val then s.getV (j.castLE (by decide)) else s.getHp j) ∧
      t = { s with hp := t.hp }) ∧
    (7 < x.val →
      exec (.sthp x) s =
        .next { s with fault := some { cause := .hpIndexRange, op := BitVec.ofNat 16 (0xF075 + x.val * 256) } })

/-- LDHP: V0 to Vx from HP[0] to HP[x], the other registers and everything else as before; with x > 7 HpIndexRange and nothing
written (47_index_memory.md R198). The bound and that no mode gates it are the spec's own decisions D24, D10 (log 4). -/
def Obligations.HpLoad : Prop :=
  ∀ (x : RegIdx) (s : State),
    Encodes (.ldhp x) (0xF085 + x.val * 256) ∧
    (x.val ≤ 7 → ∃ t, exec (.ldhp x) s = .next t ∧
      (∀ j : Fin 8, j.val ≤ x.val → t.getV (j.castLE (by decide)) = s.getHp j) ∧
      (∀ q : RegIdx, x < q → t.getV q = s.getV q) ∧ t = { s with v := t.v }) ∧
    (7 < x.val →
      exec (.ldhp x) s =
        .next { s with fault := some { cause := .hpIndexRange, op := BitVec.ofNat 16 (0xF085 + x.val * 256) } })

/-! ### Memory, reset, outputs -/

/-- Every access is one byte at its address mod 4096, for reads and writes past the end too: a read gives the byte last
written there, and a write leaves every other byte and everything else alone (20_memory.md R54). The wrap is the spec's own
decision D6 (log 4). -/
def Obligations.MemoryReadWrite : Prop :=
  ∀ (s : State) (a b k : Nat) (v : Byte),
    s.memRead (a + 4096 * k) = s.memRead a ∧ s.memWrite (a + 4096 * k) v = s.memWrite a v ∧
    (a < 4096 → s.memRead a = Memory.read s.mem a) ∧
    (s.memWrite a v).memRead b = (if b % 4096 = a % 4096 then v else s.memRead b) ∧
    s.memWrite a v = { s with mem := (s.memWrite a v).mem }

/-- Two canonical memories with the same 4096 bytes are the same list (the representation is the model's, log 14). -/
def Obligations.MemoryCanonical : Prop :=
  ∀ m m' : Memory, Memory.wf m → Memory.wf m' → (∀ a, a < 4096 → Memory.read m a = Memory.read m' a) → m = m'

/-- Self-modifying code: after STM or BCD a fetch from any address sees each byte stored, and the old byte at every address
not stored to (20_memory.md R63, which the spec derives; log 4). Wrap and digit order are the spec's own (D6, D25;
log 4). -/
def Obligations.StoreThenFetch : Prop :=
  ∀ (x : RegIdx) (s : State) (p : Word),
    (∃ t, exec (.stm x) s = .next t ∧
      (∀ k : RegIdx, k ≤ x → FetchSees t p (s.ea k.val) (s.getV k)) ∧
      (∀ a, a < 4096 → (∀ k : RegIdx, k ≤ x → a ≠ s.ea k.val) → FetchSees t p a (s.memRead a))) ∧
    (∃ t, exec (.bcd x) s = .next t ∧
      FetchSees t p (s.ea 0) (BitVec.ofNat 8 ((s.getV x).toNat / 100)) ∧
      FetchSees t p (s.ea 1) (BitVec.ofNat 8 ((s.getV x).toNat / 10 % 10)) ∧
      FetchSees t p (s.ea 2) (BitVec.ofNat 8 ((s.getV x).toNat % 10)) ∧
      (∀ a, a < 4096 → a ≠ s.ea 0 → a ≠ s.ea 1 → a ≠ s.ea 2 → FetchSees t p a (s.memRead a)))

/-- The reset values of 10_state.md R40, but for the bytes of the fonts and of HP, which are open parameters (log 1 to
log 3). Those the spec decides itself (D1, D2, D4) are log 4. -/
def Obligations.ResetValues : Prop :=
  (∀ r, State.reset.getV r = 0#8) ∧ (∀ (k : Nat) (h : k < 16), State.reset.stack[k] = 0#16) ∧
  State.reset.pc = 0x200#16 ∧ State.reset.sp.val = 1 ∧ State.reset.i = 0#12 ∧ State.reset.dt = 0#8 ∧
  State.reset.st = 0#8 ∧ State.reset.halt = false ∧ State.reset.mode = .chip ∧ State.reset.fault = none ∧
  State.reset.wait = none ∧ (∀ x y, State.reset.fb.pixel x y = false) ∧
  (∀ a, 0x0F0 ≤ a → a < 4096 → State.reset.memRead a = 0#8)

/-- Reset with a program of at most 0xE00 bytes puts it at 0x200 upward and leaves the rest of the reset state; with a longer
one the model refuses; the empty program's first step raises UnknownOpcode(0x0000) (70_reset_and_hazards.md R232,
R230), and the state has the invariant, whose canonical memory list is the model's own (log 14). The refusal is the spec's
own decision D37, the zeros D4 (log 4); that State.reset is the reset with the empty program is log 9. -/
def Obligations.ResetWithProgram : Prop :=
  (∀ rom : List Byte, rom.length ≤ 0xE00 →
    ∃ t, State.resetWith rom = .next t ∧ (∀ (k : Nat) (h : k < rom.length), t.memRead (0x200 + k) = rom[k]) ∧
      (∀ a, a < 4096 → a < 0x200 ∨ 0x200 + rom.length ≤ a → t.memRead a = State.reset.memRead a) ∧
      t = { State.reset with mem := t.mem } ∧ t.Inv) ∧
  (∀ rom : List Byte, 0xE00 < rom.length → State.resetWith rom = .refused (.oversizedProgram rom.length)) ∧
  State.resetWith [] = .next State.reset ∧
  step State.reset =
    .next { State.reset with pc := 0x202#16, fault := some { cause := .unknownOpcode, op := 0x0000#16 } }

/-- The fault outputs: valid with the cause's code and the opcode once a fault is latched, code 0 before; and the address of
the faulting instruction is PC - 2 (60_exceptions.md R201). Codes and outputs are the spec's own decision D30 (log 4). -/
def Obligations.FaultOutputs : Prop :=
  ∀ s : State,
    (s.fault = none → s.faultValid = false ∧ s.faultCode = 0#3) ∧
    (∀ r : FaultRecord, s.fault = some r → s.faultValid = true ∧ s.faultOpcode = some r.op ∧
      s.faultCode = match r.cause with
        | .unknownOpcode => 1#3
        | .stackOverflow => 2#3
        | .stackUnderflow => 3#3
        | .hpIndexRange => 4#3) ∧
    (∀ t, step s = .next t → s.pc.toNat < 4096 → s.fault = none → t.fault ≠ none → t.faultAddress = s.pc)
end

