-- ==== Sys2Proof/Laws/Decode.lean ====
section
/-! SUPPORT. Nibbles of words, and words of nibbles: the fields that the encoder puts in are the fields that the decoder
takes out. -/
namespace Sys2Proof

@[simp] theorem regOfNibble_nibbleOfReg (r : RegIdx) : regOfNibble (nibbleOfReg r) = r := by
  revert r; decide

@[simp] theorem nibbleOfReg_regOfNibble (b : Nibble) : nibbleOfReg (regOfNibble b) = b := by
  revert b; decide

theorem toNat_append_nibble {w : Nat} (a : BitVec w) (b : Nibble) : (a ++ b).toNat = a.toNat * 16 + b.toNat := by
  rw [BitVec.toNat_append, Nat.shiftLeft_eq, Nat.mul_comm, ← Nat.two_pow_add_eq_or_of_lt b.isLt]

theorem toVal_toNat (a b : Nibble) : (toVal a b).toNat = a.toNat * 16 + b.toNat := toNat_append_nibble a b

theorem toAddr_toNat (a b c : Nibble) : (toAddr a b c).toNat = a.toNat * 256 + b.toNat * 16 + c.toNat := by
  have h1 := toNat_append_nibble (a ++ b) c
  have h2 := toNat_append_nibble a b
  show ((a ++ b) ++ c).toNat = _
  omega

theorem wordOf_toNat (a b c d : Nibble) :
    (wordOf a b c d).toNat = a.toNat * 4096 + b.toNat * 256 + c.toNat * 16 + d.toNat := by
  have h1 := toNat_append_nibble ((a ++ b) ++ c) d
  have h2 := toNat_append_nibble (a ++ b) c
  have h3 := toNat_append_nibble a b
  show (((a ++ b) ++ c) ++ d).toNat = _
  omega

theorem extractLsb'_four_toNat {w : Nat} (x : BitVec w) (k : Nat) :
    (x.extractLsb' k 4).toNat = x.toNat / 2 ^ k % 16 := by
  simp [BitVec.extractLsb'_toNat, Nat.shiftRight_eq_div_pow]

@[simp] theorem nibble3_wordOf (a b c d : Nibble) : nibble3 (wordOf a b c d) = a := by
  apply BitVec.eq_of_toNat_eq
  have := a.isLt; have := b.isLt; have := c.isLt; have := d.isLt
  rw [nibble3, extractLsb'_four_toNat, wordOf_toNat]
  omega

@[simp] theorem nibble2_wordOf (a b c d : Nibble) : nibble2 (wordOf a b c d) = b := by
  apply BitVec.eq_of_toNat_eq
  have := a.isLt; have := b.isLt; have := c.isLt; have := d.isLt
  rw [nibble2, extractLsb'_four_toNat, wordOf_toNat]
  omega

@[simp] theorem nibble1_wordOf (a b c d : Nibble) : nibble1 (wordOf a b c d) = c := by
  apply BitVec.eq_of_toNat_eq
  have := a.isLt; have := b.isLt; have := c.isLt; have := d.isLt
  rw [nibble1, extractLsb'_four_toNat, wordOf_toNat]
  omega

@[simp] theorem nibble0_wordOf (a b c d : Nibble) : nibble0 (wordOf a b c d) = d := by
  apply BitVec.eq_of_toNat_eq
  have := a.isLt; have := b.isLt; have := c.isLt; have := d.isLt
  rw [nibble0, extractLsb'_four_toNat, wordOf_toNat]
  omega

/-- A word is its four nibbles. -/
theorem wordOf_nibbles (op : Word) : wordOf (nibble3 op) (nibble2 op) (nibble1 op) (nibble0 op) = op := by
  apply BitVec.eq_of_toNat_eq
  have := op.isLt
  rw [wordOf_toNat, nibble3, nibble2, nibble1, nibble0, extractLsb'_four_toNat, extractLsb'_four_toNat,
    extractLsb'_four_toNat, extractLsb'_four_toNat]
  omega

@[simp] theorem toVal_extract (nn : Byte) : toVal (nn.extractLsb' 4 4) (nn.extractLsb' 0 4) = nn := by
  apply BitVec.eq_of_toNat_eq
  have := nn.isLt
  rw [toVal_toNat, extractLsb'_four_toNat, extractLsb'_four_toNat]
  omega

@[simp] theorem toAddr_extract (nnn : Addr) :
    toAddr (nnn.extractLsb' 8 4) (nnn.extractLsb' 4 4) (nnn.extractLsb' 0 4) = nnn := by
  apply BitVec.eq_of_toNat_eq
  have := nnn.isLt
  rw [toAddr_toNat, extractLsb'_four_toNat, extractLsb'_four_toNat, extractLsb'_four_toNat]
  omega

/-! ### Words of assembled fields -/

@[simp] theorem encNNN_toAddr (h a b c : Nibble) : encNNN h (toAddr a b c) = wordOf h a b c := by
  have ha := a.isLt
  have hb := b.isLt
  have hc := c.isLt
  have e2 : (toAddr a b c).extractLsb' 8 4 = a := by
    apply BitVec.eq_of_toNat_eq
    rw [extractLsb'_four_toNat, toAddr_toNat]
    omega
  have e1 : (toAddr a b c).extractLsb' 4 4 = b := by
    apply BitVec.eq_of_toNat_eq
    rw [extractLsb'_four_toNat, toAddr_toNat]
    omega
  have e0 : (toAddr a b c).extractLsb' 0 4 = c := by
    apply BitVec.eq_of_toNat_eq
    rw [extractLsb'_four_toNat, toAddr_toNat]
    omega
  rw [encNNN, e2, e1, e0]

@[simp] theorem encXNN_toVal (h a b c : Nibble) : encXNN h (regOfNibble a) (toVal b c) = wordOf h a b c := by
  have hb := b.isLt
  have hc := c.isLt
  have e1 : (toVal b c).extractLsb' 4 4 = b := by
    apply BitVec.eq_of_toNat_eq
    rw [extractLsb'_four_toNat, toVal_toNat]
    omega
  have e0 : (toVal b c).extractLsb' 0 4 = c := by
    apply BitVec.eq_of_toNat_eq
    rw [extractLsb'_four_toNat, toVal_toNat]
    omega
  rw [encXNN, nibbleOfReg_regOfNibble, e1, e0]

@[simp] theorem encXYN_regs (h a b c : Nibble) : encXYN h (regOfNibble a) (regOfNibble b) c = wordOf h a b c := by
  rw [encXYN, nibbleOfReg_regOfNibble, nibbleOfReg_regOfNibble]

/-- The word of format NNN as a number (30_encoding.md R72). -/
theorem encNNN_toNat (h : Nibble) (nnn : Addr) : (encNNN h nnn).toNat = h.toNat * 4096 + nnn.toNat := by
  have := nnn.isLt
  rw [encNNN, wordOf_toNat, extractLsb'_four_toNat, extractLsb'_four_toNat, extractLsb'_four_toNat]
  omega

theorem nibbleOfReg_toNat (x : RegIdx) : (nibbleOfReg x).toNat = x.val := by
  have := x.isLt
  rw [nibbleOfReg, BitVec.toNat_ofNat]
  omega

/-- The word of format XNN or X as a number (30_encoding.md R72). -/
theorem encXNN_toNat (h : Nibble) (x : RegIdx) (nn : Byte) :
    (encXNN h x nn).toNat = h.toNat * 4096 + x.val * 256 + nn.toNat := by
  have := nn.isLt
  rw [encXNN, wordOf_toNat, nibbleOfReg_toNat, extractLsb'_four_toNat, extractLsb'_four_toNat]
  omega

/-- The word of format XYN or XY as a number (30_encoding.md R72). -/
theorem encXYN_toNat (h : Nibble) (x y : RegIdx) (n : Nibble) :
    (encXYN h x y n).toNat = h.toNat * 4096 + x.val * 256 + y.val * 16 + n.toNat := by
  rw [encXYN, wordOf_toNat, nibbleOfReg_toNat, nibbleOfReg_toNat]

/-- The low byte of a word is its two low nibbles. -/
theorem loByte_eq_toVal (op : Word) : loByte op = toVal (nibble1 op) (nibble0 op) := by
  apply BitVec.eq_of_toNat_eq
  have := op.isLt
  rw [toVal_toNat, nibble1, nibble0, extractLsb'_four_toNat, extractLsb'_four_toNat]
  simp only [loByte, BitVec.extractLsb'_toNat, Nat.shiftRight_eq_div_pow]
  omega

/-- The decoder on a word given by its nibbles. -/
theorem decode_wordOf (a b c d : Nibble) : decode (wordOf a b c d) = decodeNibbles a b c d := by simp [decode]

/-- Laying a word out as two bytes and reading it back. -/
@[simp] theorem wordOfBytes_hi_lo (op : Word) : wordOfBytes (hiByte op) (loByte op) = op := by
  apply BitVec.eq_of_toNat_eq
  have := op.isLt
  rw [wordOfBytes, BitVec.toNat_append, Nat.shiftLeft_eq, Nat.mul_comm, ← Nat.two_pow_add_eq_or_of_lt (loByte op).isLt]
  simp only [hiByte, loByte, BitVec.extractLsb'_toNat, Nat.shiftRight_eq_div_pow]
  omega

/-- The high byte of a word made of two bytes. -/
@[simp] theorem hiByte_wordOfBytes (hi lo : Byte) : hiByte (wordOfBytes hi lo) = hi := by
  apply BitVec.eq_of_toNat_eq
  have := hi.isLt
  have := lo.isLt
  rw [hiByte, wordOfBytes, BitVec.extractLsb'_toNat, BitVec.toNat_append, Nat.shiftRight_eq_div_pow, Nat.shiftLeft_eq,
    Nat.mul_comm, ← Nat.two_pow_add_eq_or_of_lt lo.isLt]
  omega

/-- The low byte of a word made of two bytes. -/
@[simp] theorem loByte_wordOfBytes (hi lo : Byte) : loByte (wordOfBytes hi lo) = lo := by
  apply BitVec.eq_of_toNat_eq
  have := hi.isLt
  have := lo.isLt
  rw [loByte, wordOfBytes, BitVec.extractLsb'_toNat, BitVec.toNat_append, Nat.shiftRight_eq_div_pow, Nat.shiftLeft_eq,
    Nat.mul_comm, ← Nat.two_pow_add_eq_or_of_lt lo.isLt]
  omega

end Sys2Proof
end

