-- ==== Sys2Proof/Laws/State.lean ====
section
/-! SUPPORT. One lemma for each field of the state under each named update, and for each view of the state (a register, an
HP48 byte, a byte of memory, a data address) that an update leaves alone. All hold by definition. -/
namespace Sys2Proof.Machine

variable (s : State)

/-! ### setV -/

@[simp] theorem setV_v (x : RegIdx) (b : Byte) : (s.setV x b).v = s.v.set x.val b := rfl
@[simp] theorem setV_i (x : RegIdx) (b : Byte) : (s.setV x b).i = s.i := rfl
@[simp] theorem setV_pc (x : RegIdx) (b : Byte) : (s.setV x b).pc = s.pc := rfl
@[simp] theorem setV_sp (x : RegIdx) (b : Byte) : (s.setV x b).sp = s.sp := rfl
@[simp] theorem setV_stack (x : RegIdx) (b : Byte) : (s.setV x b).stack = s.stack := rfl
@[simp] theorem setV_dt (x : RegIdx) (b : Byte) : (s.setV x b).dt = s.dt := rfl
@[simp] theorem setV_st (x : RegIdx) (b : Byte) : (s.setV x b).st = s.st := rfl
@[simp] theorem setV_hp (x : RegIdx) (b : Byte) : (s.setV x b).hp = s.hp := rfl
@[simp] theorem setV_halt (x : RegIdx) (b : Byte) : (s.setV x b).halt = s.halt := rfl
@[simp] theorem setV_mode (x : RegIdx) (b : Byte) : (s.setV x b).mode = s.mode := rfl
@[simp] theorem setV_fault (x : RegIdx) (b : Byte) : (s.setV x b).fault = s.fault := rfl
@[simp] theorem setV_mem (x : RegIdx) (b : Byte) : (s.setV x b).mem = s.mem := rfl
@[simp] theorem setV_fb (x : RegIdx) (b : Byte) : (s.setV x b).fb = s.fb := rfl
@[simp] theorem setV_wait (x : RegIdx) (b : Byte) : (s.setV x b).wait = s.wait := rfl
@[simp] theorem setV_inputs (x : RegIdx) (b : Byte) : (s.setV x b).inputs = s.inputs := rfl
@[simp] theorem setV_draws (x : RegIdx) (b : Byte) : (s.setV x b).draws = s.draws := rfl
@[simp] theorem setV_getHp (x : RegIdx) (b : Byte) (k : Fin 8) : (s.setV x b).getHp k = s.getHp k := rfl
@[simp] theorem setV_memRead (x : RegIdx) (b : Byte) (a : Nat) : (s.setV x b).memRead a = s.memRead a := rfl
@[simp] theorem setV_ea (x : RegIdx) (b : Byte) (k : Nat) : (s.setV x b).ea k = s.ea k := rfl

/-! ### setHp -/

@[simp] theorem setHp_v (x : Fin 8) (b : Byte) : (s.setHp x b).v = s.v := rfl
@[simp] theorem setHp_i (x : Fin 8) (b : Byte) : (s.setHp x b).i = s.i := rfl
@[simp] theorem setHp_pc (x : Fin 8) (b : Byte) : (s.setHp x b).pc = s.pc := rfl
@[simp] theorem setHp_sp (x : Fin 8) (b : Byte) : (s.setHp x b).sp = s.sp := rfl
@[simp] theorem setHp_stack (x : Fin 8) (b : Byte) : (s.setHp x b).stack = s.stack := rfl
@[simp] theorem setHp_dt (x : Fin 8) (b : Byte) : (s.setHp x b).dt = s.dt := rfl
@[simp] theorem setHp_st (x : Fin 8) (b : Byte) : (s.setHp x b).st = s.st := rfl
@[simp] theorem setHp_hp (x : Fin 8) (b : Byte) : (s.setHp x b).hp = s.hp.set x.val b := rfl
@[simp] theorem setHp_halt (x : Fin 8) (b : Byte) : (s.setHp x b).halt = s.halt := rfl
@[simp] theorem setHp_mode (x : Fin 8) (b : Byte) : (s.setHp x b).mode = s.mode := rfl
@[simp] theorem setHp_fault (x : Fin 8) (b : Byte) : (s.setHp x b).fault = s.fault := rfl
@[simp] theorem setHp_mem (x : Fin 8) (b : Byte) : (s.setHp x b).mem = s.mem := rfl
@[simp] theorem setHp_fb (x : Fin 8) (b : Byte) : (s.setHp x b).fb = s.fb := rfl
@[simp] theorem setHp_wait (x : Fin 8) (b : Byte) : (s.setHp x b).wait = s.wait := rfl
@[simp] theorem setHp_inputs (x : Fin 8) (b : Byte) : (s.setHp x b).inputs = s.inputs := rfl
@[simp] theorem setHp_draws (x : Fin 8) (b : Byte) : (s.setHp x b).draws = s.draws := rfl
@[simp] theorem setHp_getV (x : Fin 8) (b : Byte) (r : RegIdx) : (s.setHp x b).getV r = s.getV r := rfl
@[simp] theorem setHp_memRead (x : Fin 8) (b : Byte) (a : Nat) : (s.setHp x b).memRead a = s.memRead a := rfl
@[simp] theorem setHp_ea (x : Fin 8) (b : Byte) (k : Nat) : (s.setHp x b).ea k = s.ea k := rfl

/-! ### setI -/

@[simp] theorem setI_v (n : Nat) : (s.setI n).v = s.v := rfl
@[simp] theorem setI_i (n : Nat) : (s.setI n).i = BitVec.ofNat 12 n := rfl
@[simp] theorem setI_pc (n : Nat) : (s.setI n).pc = s.pc := rfl
@[simp] theorem setI_sp (n : Nat) : (s.setI n).sp = s.sp := rfl
@[simp] theorem setI_stack (n : Nat) : (s.setI n).stack = s.stack := rfl
@[simp] theorem setI_dt (n : Nat) : (s.setI n).dt = s.dt := rfl
@[simp] theorem setI_st (n : Nat) : (s.setI n).st = s.st := rfl
@[simp] theorem setI_hp (n : Nat) : (s.setI n).hp = s.hp := rfl
@[simp] theorem setI_halt (n : Nat) : (s.setI n).halt = s.halt := rfl
@[simp] theorem setI_mode (n : Nat) : (s.setI n).mode = s.mode := rfl
@[simp] theorem setI_fault (n : Nat) : (s.setI n).fault = s.fault := rfl
@[simp] theorem setI_mem (n : Nat) : (s.setI n).mem = s.mem := rfl
@[simp] theorem setI_fb (n : Nat) : (s.setI n).fb = s.fb := rfl
@[simp] theorem setI_wait (n : Nat) : (s.setI n).wait = s.wait := rfl
@[simp] theorem setI_inputs (n : Nat) : (s.setI n).inputs = s.inputs := rfl
@[simp] theorem setI_draws (n : Nat) : (s.setI n).draws = s.draws := rfl
@[simp] theorem setI_getV (n : Nat) (r : RegIdx) : (s.setI n).getV r = s.getV r := rfl
@[simp] theorem setI_getHp (n : Nat) (k : Fin 8) : (s.setI n).getHp k = s.getHp k := rfl
@[simp] theorem setI_memRead (n : Nat) (a : Nat) : (s.setI n).memRead a = s.memRead a := rfl

/-! ### setDt -/

@[simp] theorem setDt_v (b : Byte) : (s.setDt b).v = s.v := rfl
@[simp] theorem setDt_i (b : Byte) : (s.setDt b).i = s.i := rfl
@[simp] theorem setDt_pc (b : Byte) : (s.setDt b).pc = s.pc := rfl
@[simp] theorem setDt_sp (b : Byte) : (s.setDt b).sp = s.sp := rfl
@[simp] theorem setDt_stack (b : Byte) : (s.setDt b).stack = s.stack := rfl
@[simp] theorem setDt_dt (b : Byte) : (s.setDt b).dt = b := rfl
@[simp] theorem setDt_st (b : Byte) : (s.setDt b).st = s.st := rfl
@[simp] theorem setDt_hp (b : Byte) : (s.setDt b).hp = s.hp := rfl
@[simp] theorem setDt_halt (b : Byte) : (s.setDt b).halt = s.halt := rfl
@[simp] theorem setDt_mode (b : Byte) : (s.setDt b).mode = s.mode := rfl
@[simp] theorem setDt_fault (b : Byte) : (s.setDt b).fault = s.fault := rfl
@[simp] theorem setDt_mem (b : Byte) : (s.setDt b).mem = s.mem := rfl
@[simp] theorem setDt_fb (b : Byte) : (s.setDt b).fb = s.fb := rfl
@[simp] theorem setDt_wait (b : Byte) : (s.setDt b).wait = s.wait := rfl
@[simp] theorem setDt_inputs (b : Byte) : (s.setDt b).inputs = s.inputs := rfl
@[simp] theorem setDt_draws (b : Byte) : (s.setDt b).draws = s.draws := rfl
@[simp] theorem setDt_getV (b : Byte) (r : RegIdx) : (s.setDt b).getV r = s.getV r := rfl
@[simp] theorem setDt_getHp (b : Byte) (k : Fin 8) : (s.setDt b).getHp k = s.getHp k := rfl
@[simp] theorem setDt_memRead (b : Byte) (a : Nat) : (s.setDt b).memRead a = s.memRead a := rfl
@[simp] theorem setDt_ea (b : Byte) (k : Nat) : (s.setDt b).ea k = s.ea k := rfl

/-! ### setSt -/

@[simp] theorem setSt_v (b : Byte) : (s.setSt b).v = s.v := rfl
@[simp] theorem setSt_i (b : Byte) : (s.setSt b).i = s.i := rfl
@[simp] theorem setSt_pc (b : Byte) : (s.setSt b).pc = s.pc := rfl
@[simp] theorem setSt_sp (b : Byte) : (s.setSt b).sp = s.sp := rfl
@[simp] theorem setSt_stack (b : Byte) : (s.setSt b).stack = s.stack := rfl
@[simp] theorem setSt_dt (b : Byte) : (s.setSt b).dt = s.dt := rfl
@[simp] theorem setSt_st (b : Byte) : (s.setSt b).st = b := rfl
@[simp] theorem setSt_hp (b : Byte) : (s.setSt b).hp = s.hp := rfl
@[simp] theorem setSt_halt (b : Byte) : (s.setSt b).halt = s.halt := rfl
@[simp] theorem setSt_mode (b : Byte) : (s.setSt b).mode = s.mode := rfl
@[simp] theorem setSt_fault (b : Byte) : (s.setSt b).fault = s.fault := rfl
@[simp] theorem setSt_mem (b : Byte) : (s.setSt b).mem = s.mem := rfl
@[simp] theorem setSt_fb (b : Byte) : (s.setSt b).fb = s.fb := rfl
@[simp] theorem setSt_wait (b : Byte) : (s.setSt b).wait = s.wait := rfl
@[simp] theorem setSt_inputs (b : Byte) : (s.setSt b).inputs = s.inputs := rfl
@[simp] theorem setSt_draws (b : Byte) : (s.setSt b).draws = s.draws := rfl
@[simp] theorem setSt_getV (b : Byte) (r : RegIdx) : (s.setSt b).getV r = s.getV r := rfl
@[simp] theorem setSt_getHp (b : Byte) (k : Fin 8) : (s.setSt b).getHp k = s.getHp k := rfl
@[simp] theorem setSt_memRead (b : Byte) (a : Nat) : (s.setSt b).memRead a = s.memRead a := rfl
@[simp] theorem setSt_ea (b : Byte) (k : Nat) : (s.setSt b).ea k = s.ea k := rfl

/-! ### setPc -/

@[simp] theorem setPc_v (t : Word) : (s.setPc t).v = s.v := rfl
@[simp] theorem setPc_i (t : Word) : (s.setPc t).i = s.i := rfl
@[simp] theorem setPc_pc (t : Word) : (s.setPc t).pc = t := rfl
@[simp] theorem setPc_sp (t : Word) : (s.setPc t).sp = s.sp := rfl
@[simp] theorem setPc_stack (t : Word) : (s.setPc t).stack = s.stack := rfl
@[simp] theorem setPc_dt (t : Word) : (s.setPc t).dt = s.dt := rfl
@[simp] theorem setPc_st (t : Word) : (s.setPc t).st = s.st := rfl
@[simp] theorem setPc_hp (t : Word) : (s.setPc t).hp = s.hp := rfl
@[simp] theorem setPc_halt (t : Word) : (s.setPc t).halt = s.halt := rfl
@[simp] theorem setPc_mode (t : Word) : (s.setPc t).mode = s.mode := rfl
@[simp] theorem setPc_fault (t : Word) : (s.setPc t).fault = s.fault := rfl
@[simp] theorem setPc_mem (t : Word) : (s.setPc t).mem = s.mem := rfl
@[simp] theorem setPc_fb (t : Word) : (s.setPc t).fb = s.fb := rfl
@[simp] theorem setPc_wait (t : Word) : (s.setPc t).wait = s.wait := rfl
@[simp] theorem setPc_inputs (t : Word) : (s.setPc t).inputs = s.inputs := rfl
@[simp] theorem setPc_draws (t : Word) : (s.setPc t).draws = s.draws := rfl
@[simp] theorem setPc_getV (t : Word) (r : RegIdx) : (s.setPc t).getV r = s.getV r := rfl
@[simp] theorem setPc_getHp (t : Word) (k : Fin 8) : (s.setPc t).getHp k = s.getHp k := rfl
@[simp] theorem setPc_memRead (t : Word) (a : Nat) : (s.setPc t).memRead a = s.memRead a := rfl
@[simp] theorem setPc_ea (t : Word) (k : Nat) : (s.setPc t).ea k = s.ea k := rfl

/-! ### skipIf -/

@[simp] theorem skipIf_v (c : Bool) : (s.skipIf c).v = s.v := rfl
@[simp] theorem skipIf_i (c : Bool) : (s.skipIf c).i = s.i := rfl
@[simp] theorem skipIf_pc (c : Bool) : (s.skipIf c).pc = if c then pcOf (s.pc.toNat + 2) else s.pc := rfl
@[simp] theorem skipIf_sp (c : Bool) : (s.skipIf c).sp = s.sp := rfl
@[simp] theorem skipIf_stack (c : Bool) : (s.skipIf c).stack = s.stack := rfl
@[simp] theorem skipIf_dt (c : Bool) : (s.skipIf c).dt = s.dt := rfl
@[simp] theorem skipIf_st (c : Bool) : (s.skipIf c).st = s.st := rfl
@[simp] theorem skipIf_hp (c : Bool) : (s.skipIf c).hp = s.hp := rfl
@[simp] theorem skipIf_halt (c : Bool) : (s.skipIf c).halt = s.halt := rfl
@[simp] theorem skipIf_mode (c : Bool) : (s.skipIf c).mode = s.mode := rfl
@[simp] theorem skipIf_fault (c : Bool) : (s.skipIf c).fault = s.fault := rfl
@[simp] theorem skipIf_mem (c : Bool) : (s.skipIf c).mem = s.mem := rfl
@[simp] theorem skipIf_fb (c : Bool) : (s.skipIf c).fb = s.fb := rfl
@[simp] theorem skipIf_wait (c : Bool) : (s.skipIf c).wait = s.wait := rfl
@[simp] theorem skipIf_inputs (c : Bool) : (s.skipIf c).inputs = s.inputs := rfl
@[simp] theorem skipIf_draws (c : Bool) : (s.skipIf c).draws = s.draws := rfl
@[simp] theorem skipIf_getV (c : Bool) (r : RegIdx) : (s.skipIf c).getV r = s.getV r := rfl
@[simp] theorem skipIf_getHp (c : Bool) (k : Fin 8) : (s.skipIf c).getHp k = s.getHp k := rfl
@[simp] theorem skipIf_memRead (c : Bool) (a : Nat) : (s.skipIf c).memRead a = s.memRead a := rfl
@[simp] theorem skipIf_ea (c : Bool) (k : Nat) : (s.skipIf c).ea k = s.ea k := rfl

/-! ### memWrite -/

@[simp] theorem memWrite_v (n : Nat) (b : Byte) : (s.memWrite n b).v = s.v := rfl
@[simp] theorem memWrite_i (n : Nat) (b : Byte) : (s.memWrite n b).i = s.i := rfl
@[simp] theorem memWrite_pc (n : Nat) (b : Byte) : (s.memWrite n b).pc = s.pc := rfl
@[simp] theorem memWrite_sp (n : Nat) (b : Byte) : (s.memWrite n b).sp = s.sp := rfl
@[simp] theorem memWrite_stack (n : Nat) (b : Byte) : (s.memWrite n b).stack = s.stack := rfl
@[simp] theorem memWrite_dt (n : Nat) (b : Byte) : (s.memWrite n b).dt = s.dt := rfl
@[simp] theorem memWrite_st (n : Nat) (b : Byte) : (s.memWrite n b).st = s.st := rfl
@[simp] theorem memWrite_hp (n : Nat) (b : Byte) : (s.memWrite n b).hp = s.hp := rfl
@[simp] theorem memWrite_halt (n : Nat) (b : Byte) : (s.memWrite n b).halt = s.halt := rfl
@[simp] theorem memWrite_mode (n : Nat) (b : Byte) : (s.memWrite n b).mode = s.mode := rfl
@[simp] theorem memWrite_fault (n : Nat) (b : Byte) : (s.memWrite n b).fault = s.fault := rfl
@[simp] theorem memWrite_mem (n : Nat) (b : Byte) : (s.memWrite n b).mem = Memory.write s.mem (n % Config.memSize) b := rfl
@[simp] theorem memWrite_fb (n : Nat) (b : Byte) : (s.memWrite n b).fb = s.fb := rfl
@[simp] theorem memWrite_wait (n : Nat) (b : Byte) : (s.memWrite n b).wait = s.wait := rfl
@[simp] theorem memWrite_inputs (n : Nat) (b : Byte) : (s.memWrite n b).inputs = s.inputs := rfl
@[simp] theorem memWrite_draws (n : Nat) (b : Byte) : (s.memWrite n b).draws = s.draws := rfl
@[simp] theorem memWrite_getV (n : Nat) (b : Byte) (r : RegIdx) : (s.memWrite n b).getV r = s.getV r := rfl
@[simp] theorem memWrite_getHp (n : Nat) (b : Byte) (k : Fin 8) : (s.memWrite n b).getHp k = s.getHp k := rfl
@[simp] theorem memWrite_ea (n : Nat) (b : Byte) (k : Nat) : (s.memWrite n b).ea k = s.ea k := rfl

/-! ### drawnRnd -/

@[simp] theorem drawnRnd_v : (s.drawnRnd).v = s.v := rfl
@[simp] theorem drawnRnd_i : (s.drawnRnd).i = s.i := rfl
@[simp] theorem drawnRnd_pc : (s.drawnRnd).pc = s.pc := rfl
@[simp] theorem drawnRnd_sp : (s.drawnRnd).sp = s.sp := rfl
@[simp] theorem drawnRnd_stack : (s.drawnRnd).stack = s.stack := rfl
@[simp] theorem drawnRnd_dt : (s.drawnRnd).dt = s.dt := rfl
@[simp] theorem drawnRnd_st : (s.drawnRnd).st = s.st := rfl
@[simp] theorem drawnRnd_hp : (s.drawnRnd).hp = s.hp := rfl
@[simp] theorem drawnRnd_halt : (s.drawnRnd).halt = s.halt := rfl
@[simp] theorem drawnRnd_mode : (s.drawnRnd).mode = s.mode := rfl
@[simp] theorem drawnRnd_fault : (s.drawnRnd).fault = s.fault := rfl
@[simp] theorem drawnRnd_mem : (s.drawnRnd).mem = s.mem := rfl
@[simp] theorem drawnRnd_fb : (s.drawnRnd).fb = s.fb := rfl
@[simp] theorem drawnRnd_wait : (s.drawnRnd).wait = s.wait := rfl
@[simp] theorem drawnRnd_inputs : (s.drawnRnd).inputs = { s.inputs with rnd := s.inputs.rnd.tail } := rfl
@[simp] theorem drawnRnd_draws : (s.drawnRnd).draws = s.draws + 1 := rfl
@[simp] theorem drawnRnd_getV (r : RegIdx) : (s.drawnRnd).getV r = s.getV r := rfl
@[simp] theorem drawnRnd_getHp (k : Fin 8) : (s.drawnRnd).getHp k = s.getHp k := rfl
@[simp] theorem drawnRnd_memRead (a : Nat) : (s.drawnRnd).memRead a = s.memRead a := rfl
@[simp] theorem drawnRnd_ea (k : Nat) : (s.drawnRnd).ea k = s.ea k := rfl

/-! ### drawnKeyDown -/

@[simp] theorem drawnKeyDown_v : (s.drawnKeyDown).v = s.v := rfl
@[simp] theorem drawnKeyDown_i : (s.drawnKeyDown).i = s.i := rfl
@[simp] theorem drawnKeyDown_pc : (s.drawnKeyDown).pc = s.pc := rfl
@[simp] theorem drawnKeyDown_sp : (s.drawnKeyDown).sp = s.sp := rfl
@[simp] theorem drawnKeyDown_stack : (s.drawnKeyDown).stack = s.stack := rfl
@[simp] theorem drawnKeyDown_dt : (s.drawnKeyDown).dt = s.dt := rfl
@[simp] theorem drawnKeyDown_st : (s.drawnKeyDown).st = s.st := rfl
@[simp] theorem drawnKeyDown_hp : (s.drawnKeyDown).hp = s.hp := rfl
@[simp] theorem drawnKeyDown_halt : (s.drawnKeyDown).halt = s.halt := rfl
@[simp] theorem drawnKeyDown_mode : (s.drawnKeyDown).mode = s.mode := rfl
@[simp] theorem drawnKeyDown_fault : (s.drawnKeyDown).fault = s.fault := rfl
@[simp] theorem drawnKeyDown_mem : (s.drawnKeyDown).mem = s.mem := rfl
@[simp] theorem drawnKeyDown_fb : (s.drawnKeyDown).fb = s.fb := rfl
@[simp] theorem drawnKeyDown_wait : (s.drawnKeyDown).wait = s.wait := rfl
@[simp] theorem drawnKeyDown_inputs : (s.drawnKeyDown).inputs = { s.inputs with keyDown := s.inputs.keyDown.tail } := rfl
@[simp] theorem drawnKeyDown_draws : (s.drawnKeyDown).draws = s.draws + 1 := rfl
@[simp] theorem drawnKeyDown_getV (r : RegIdx) : (s.drawnKeyDown).getV r = s.getV r := rfl
@[simp] theorem drawnKeyDown_getHp (k : Fin 8) : (s.drawnKeyDown).getHp k = s.getHp k := rfl
@[simp] theorem drawnKeyDown_memRead (a : Nat) : (s.drawnKeyDown).memRead a = s.memRead a := rfl
@[simp] theorem drawnKeyDown_ea (k : Nat) : (s.drawnKeyDown).ea k = s.ea k := rfl

/-! ### drawnKeyWait -/

@[simp] theorem drawnKeyWait_v : (s.drawnKeyWait).v = s.v := rfl
@[simp] theorem drawnKeyWait_i : (s.drawnKeyWait).i = s.i := rfl
@[simp] theorem drawnKeyWait_pc : (s.drawnKeyWait).pc = s.pc := rfl
@[simp] theorem drawnKeyWait_sp : (s.drawnKeyWait).sp = s.sp := rfl
@[simp] theorem drawnKeyWait_stack : (s.drawnKeyWait).stack = s.stack := rfl
@[simp] theorem drawnKeyWait_dt : (s.drawnKeyWait).dt = s.dt := rfl
@[simp] theorem drawnKeyWait_st : (s.drawnKeyWait).st = s.st := rfl
@[simp] theorem drawnKeyWait_hp : (s.drawnKeyWait).hp = s.hp := rfl
@[simp] theorem drawnKeyWait_halt : (s.drawnKeyWait).halt = s.halt := rfl
@[simp] theorem drawnKeyWait_mode : (s.drawnKeyWait).mode = s.mode := rfl
@[simp] theorem drawnKeyWait_fault : (s.drawnKeyWait).fault = s.fault := rfl
@[simp] theorem drawnKeyWait_mem : (s.drawnKeyWait).mem = s.mem := rfl
@[simp] theorem drawnKeyWait_fb : (s.drawnKeyWait).fb = s.fb := rfl
@[simp] theorem drawnKeyWait_wait : (s.drawnKeyWait).wait = s.wait := rfl
@[simp] theorem drawnKeyWait_inputs : (s.drawnKeyWait).inputs = { s.inputs with keyWait := s.inputs.keyWait.tail } := rfl
@[simp] theorem drawnKeyWait_draws : (s.drawnKeyWait).draws = s.draws + 1 := rfl
@[simp] theorem drawnKeyWait_getV (r : RegIdx) : (s.drawnKeyWait).getV r = s.getV r := rfl
@[simp] theorem drawnKeyWait_getHp (k : Fin 8) : (s.drawnKeyWait).getHp k = s.getHp k := rfl
@[simp] theorem drawnKeyWait_memRead (a : Nat) : (s.drawnKeyWait).memRead a = s.memRead a := rfl
@[simp] theorem drawnKeyWait_ea (k : Nat) : (s.drawnKeyWait).ea k = s.ea k := rfl

/-! ### drawnChoice -/

@[simp] theorem drawnChoice_v : (s.drawnChoice).v = s.v := rfl
@[simp] theorem drawnChoice_i : (s.drawnChoice).i = s.i := rfl
@[simp] theorem drawnChoice_pc : (s.drawnChoice).pc = s.pc := rfl
@[simp] theorem drawnChoice_sp : (s.drawnChoice).sp = s.sp := rfl
@[simp] theorem drawnChoice_stack : (s.drawnChoice).stack = s.stack := rfl
@[simp] theorem drawnChoice_dt : (s.drawnChoice).dt = s.dt := rfl
@[simp] theorem drawnChoice_st : (s.drawnChoice).st = s.st := rfl
@[simp] theorem drawnChoice_hp : (s.drawnChoice).hp = s.hp := rfl
@[simp] theorem drawnChoice_halt : (s.drawnChoice).halt = s.halt := rfl
@[simp] theorem drawnChoice_mode : (s.drawnChoice).mode = s.mode := rfl
@[simp] theorem drawnChoice_fault : (s.drawnChoice).fault = s.fault := rfl
@[simp] theorem drawnChoice_mem : (s.drawnChoice).mem = s.mem := rfl
@[simp] theorem drawnChoice_fb : (s.drawnChoice).fb = s.fb := rfl
@[simp] theorem drawnChoice_wait : (s.drawnChoice).wait = s.wait := rfl
@[simp] theorem drawnChoice_inputs : (s.drawnChoice).inputs = s.inputs := rfl
@[simp] theorem drawnChoice_draws : (s.drawnChoice).draws = s.draws + 1 := rfl
@[simp] theorem drawnChoice_getV (r : RegIdx) : (s.drawnChoice).getV r = s.getV r := rfl
@[simp] theorem drawnChoice_getHp (k : Fin 8) : (s.drawnChoice).getHp k = s.getHp k := rfl
@[simp] theorem drawnChoice_memRead (a : Nat) : (s.drawnChoice).memRead a = s.memRead a := rfl
@[simp] theorem drawnChoice_ea (k : Nat) : (s.drawnChoice).ea k = s.ea k := rfl

/-! ### raise -/

@[simp] theorem raise_v (c : FatalCause) (op : Word) : (s.raise c op).v = s.v := rfl
@[simp] theorem raise_i (c : FatalCause) (op : Word) : (s.raise c op).i = s.i := rfl
@[simp] theorem raise_pc (c : FatalCause) (op : Word) : (s.raise c op).pc = s.pc := rfl
@[simp] theorem raise_sp (c : FatalCause) (op : Word) : (s.raise c op).sp = s.sp := rfl
@[simp] theorem raise_stack (c : FatalCause) (op : Word) : (s.raise c op).stack = s.stack := rfl
@[simp] theorem raise_dt (c : FatalCause) (op : Word) : (s.raise c op).dt = s.dt := rfl
@[simp] theorem raise_st (c : FatalCause) (op : Word) : (s.raise c op).st = s.st := rfl
@[simp] theorem raise_hp (c : FatalCause) (op : Word) : (s.raise c op).hp = s.hp := rfl
@[simp] theorem raise_halt (c : FatalCause) (op : Word) : (s.raise c op).halt = s.halt := rfl
@[simp] theorem raise_mode (c : FatalCause) (op : Word) : (s.raise c op).mode = s.mode := rfl
@[simp] theorem raise_fault (c : FatalCause) (op : Word) : (s.raise c op).fault = some { cause := c, op := op } := rfl
@[simp] theorem raise_mem (c : FatalCause) (op : Word) : (s.raise c op).mem = s.mem := rfl
@[simp] theorem raise_fb (c : FatalCause) (op : Word) : (s.raise c op).fb = s.fb := rfl
@[simp] theorem raise_wait (c : FatalCause) (op : Word) : (s.raise c op).wait = s.wait := rfl
@[simp] theorem raise_inputs (c : FatalCause) (op : Word) : (s.raise c op).inputs = s.inputs := rfl
@[simp] theorem raise_draws (c : FatalCause) (op : Word) : (s.raise c op).draws = s.draws := rfl
@[simp] theorem raise_getV (c : FatalCause) (op : Word) (r : RegIdx) : (s.raise c op).getV r = s.getV r := rfl
@[simp] theorem raise_getHp (c : FatalCause) (op : Word) (k : Fin 8) : (s.raise c op).getHp k = s.getHp k := rfl
@[simp] theorem raise_memRead (c : FatalCause) (op : Word) (a : Nat) : (s.raise c op).memRead a = s.memRead a := rfl
@[simp] theorem raise_ea (c : FatalCause) (op : Word) (k : Nat) : (s.raise c op).ea k = s.ea k := rfl

/-! ### preAdvance -/

@[simp] theorem preAdvance_v : (s.preAdvance).v = s.v := rfl
@[simp] theorem preAdvance_i : (s.preAdvance).i = s.i := rfl
@[simp] theorem preAdvance_pc : (s.preAdvance).pc = pcOf (s.pc.toNat + 2) := rfl
@[simp] theorem preAdvance_sp : (s.preAdvance).sp = s.sp := rfl
@[simp] theorem preAdvance_stack : (s.preAdvance).stack = s.stack := rfl
@[simp] theorem preAdvance_dt : (s.preAdvance).dt = s.dt := rfl
@[simp] theorem preAdvance_st : (s.preAdvance).st = s.st := rfl
@[simp] theorem preAdvance_hp : (s.preAdvance).hp = s.hp := rfl
@[simp] theorem preAdvance_halt : (s.preAdvance).halt = s.halt := rfl
@[simp] theorem preAdvance_mode : (s.preAdvance).mode = s.mode := rfl
@[simp] theorem preAdvance_fault : (s.preAdvance).fault = s.fault := rfl
@[simp] theorem preAdvance_mem : (s.preAdvance).mem = s.mem := rfl
@[simp] theorem preAdvance_fb : (s.preAdvance).fb = s.fb := rfl
@[simp] theorem preAdvance_wait : (s.preAdvance).wait = s.wait := rfl
@[simp] theorem preAdvance_inputs : (s.preAdvance).inputs = s.inputs := rfl
@[simp] theorem preAdvance_draws : (s.preAdvance).draws = s.draws := rfl
@[simp] theorem preAdvance_getV (r : RegIdx) : (s.preAdvance).getV r = s.getV r := rfl
@[simp] theorem preAdvance_getHp (k : Fin 8) : (s.preAdvance).getHp k = s.getHp k := rfl
@[simp] theorem preAdvance_memRead (a : Nat) : (s.preAdvance).memRead a = s.memRead a := rfl
@[simp] theorem preAdvance_ea (k : Nat) : (s.preAdvance).ea k = s.ea k := rfl

/-! ### pushPc -/

@[simp] theorem pushPc_v (h : s.sp.val < 16) : (s.pushPc h).v = s.v := rfl
@[simp] theorem pushPc_i (h : s.sp.val < 16) : (s.pushPc h).i = s.i := rfl
@[simp] theorem pushPc_pc (h : s.sp.val < 16) : (s.pushPc h).pc = s.pc := rfl
@[simp] theorem pushPc_sp (h : s.sp.val < 16) : (s.pushPc h).sp = ⟨s.sp.val + 1, Nat.succ_lt_succ h⟩ := rfl
@[simp] theorem pushPc_stack (h : s.sp.val < 16) : (s.pushPc h).stack = s.stack.set s.sp.val s.pc := rfl
@[simp] theorem pushPc_dt (h : s.sp.val < 16) : (s.pushPc h).dt = s.dt := rfl
@[simp] theorem pushPc_st (h : s.sp.val < 16) : (s.pushPc h).st = s.st := rfl
@[simp] theorem pushPc_hp (h : s.sp.val < 16) : (s.pushPc h).hp = s.hp := rfl
@[simp] theorem pushPc_halt (h : s.sp.val < 16) : (s.pushPc h).halt = s.halt := rfl
@[simp] theorem pushPc_mode (h : s.sp.val < 16) : (s.pushPc h).mode = s.mode := rfl
@[simp] theorem pushPc_fault (h : s.sp.val < 16) : (s.pushPc h).fault = s.fault := rfl
@[simp] theorem pushPc_mem (h : s.sp.val < 16) : (s.pushPc h).mem = s.mem := rfl
@[simp] theorem pushPc_fb (h : s.sp.val < 16) : (s.pushPc h).fb = s.fb := rfl
@[simp] theorem pushPc_wait (h : s.sp.val < 16) : (s.pushPc h).wait = s.wait := rfl
@[simp] theorem pushPc_inputs (h : s.sp.val < 16) : (s.pushPc h).inputs = s.inputs := rfl
@[simp] theorem pushPc_draws (h : s.sp.val < 16) : (s.pushPc h).draws = s.draws := rfl
@[simp] theorem pushPc_getV (h : s.sp.val < 16) (r : RegIdx) : (s.pushPc h).getV r = s.getV r := rfl
@[simp] theorem pushPc_getHp (h : s.sp.val < 16) (k : Fin 8) : (s.pushPc h).getHp k = s.getHp k := rfl
@[simp] theorem pushPc_memRead (h : s.sp.val < 16) (a : Nat) : (s.pushPc h).memRead a = s.memRead a := rfl
@[simp] theorem pushPc_ea (h : s.sp.val < 16) (k : Nat) : (s.pushPc h).ea k = s.ea k := rfl

/-! ### popPc -/

@[simp] theorem popPc_v (h : 0 < s.sp.val) : (s.popPc h).v = s.v := rfl
@[simp] theorem popPc_i (h : 0 < s.sp.val) : (s.popPc h).i = s.i := rfl
@[simp] theorem popPc_stack (h : 0 < s.sp.val) : (s.popPc h).stack = s.stack := rfl
@[simp] theorem popPc_dt (h : 0 < s.sp.val) : (s.popPc h).dt = s.dt := rfl
@[simp] theorem popPc_st (h : 0 < s.sp.val) : (s.popPc h).st = s.st := rfl
@[simp] theorem popPc_hp (h : 0 < s.sp.val) : (s.popPc h).hp = s.hp := rfl
@[simp] theorem popPc_halt (h : 0 < s.sp.val) : (s.popPc h).halt = s.halt := rfl
@[simp] theorem popPc_mode (h : 0 < s.sp.val) : (s.popPc h).mode = s.mode := rfl
@[simp] theorem popPc_fault (h : 0 < s.sp.val) : (s.popPc h).fault = s.fault := rfl
@[simp] theorem popPc_mem (h : 0 < s.sp.val) : (s.popPc h).mem = s.mem := rfl
@[simp] theorem popPc_fb (h : 0 < s.sp.val) : (s.popPc h).fb = s.fb := rfl
@[simp] theorem popPc_wait (h : 0 < s.sp.val) : (s.popPc h).wait = s.wait := rfl
@[simp] theorem popPc_inputs (h : 0 < s.sp.val) : (s.popPc h).inputs = s.inputs := rfl
@[simp] theorem popPc_draws (h : 0 < s.sp.val) : (s.popPc h).draws = s.draws := rfl
@[simp] theorem popPc_getV (h : 0 < s.sp.val) (r : RegIdx) : (s.popPc h).getV r = s.getV r := rfl
@[simp] theorem popPc_getHp (h : 0 < s.sp.val) (k : Fin 8) : (s.popPc h).getHp k = s.getHp k := rfl
@[simp] theorem popPc_memRead (h : 0 < s.sp.val) (a : Nat) : (s.popPc h).memRead a = s.memRead a := rfl
@[simp] theorem popPc_ea (h : 0 < s.sp.val) (k : Nat) : (s.popPc h).ea k = s.ea k := rfl

/-! ### setFb -/

@[simp] theorem setFb_v (g : Fb) : (s.setFb g).v = s.v := rfl
@[simp] theorem setFb_i (g : Fb) : (s.setFb g).i = s.i := rfl
@[simp] theorem setFb_pc (g : Fb) : (s.setFb g).pc = s.pc := rfl
@[simp] theorem setFb_sp (g : Fb) : (s.setFb g).sp = s.sp := rfl
@[simp] theorem setFb_stack (g : Fb) : (s.setFb g).stack = s.stack := rfl
@[simp] theorem setFb_dt (g : Fb) : (s.setFb g).dt = s.dt := rfl
@[simp] theorem setFb_st (g : Fb) : (s.setFb g).st = s.st := rfl
@[simp] theorem setFb_hp (g : Fb) : (s.setFb g).hp = s.hp := rfl
@[simp] theorem setFb_halt (g : Fb) : (s.setFb g).halt = s.halt := rfl
@[simp] theorem setFb_mode (g : Fb) : (s.setFb g).mode = s.mode := rfl
@[simp] theorem setFb_fault (g : Fb) : (s.setFb g).fault = s.fault := rfl
@[simp] theorem setFb_mem (g : Fb) : (s.setFb g).mem = s.mem := rfl
@[simp] theorem setFb_fb (g : Fb) : (s.setFb g).fb = g := rfl
@[simp] theorem setFb_wait (g : Fb) : (s.setFb g).wait = s.wait := rfl
@[simp] theorem setFb_inputs (g : Fb) : (s.setFb g).inputs = s.inputs := rfl
@[simp] theorem setFb_draws (g : Fb) : (s.setFb g).draws = s.draws := rfl
@[simp] theorem setFb_getV (g : Fb) (r : RegIdx) : (s.setFb g).getV r = s.getV r := rfl
@[simp] theorem setFb_getHp (g : Fb) (k : Fin 8) : (s.setFb g).getHp k = s.getHp k := rfl
@[simp] theorem setFb_memRead (g : Fb) (a : Nat) : (s.setFb g).memRead a = s.memRead a := rfl
@[simp] theorem setFb_ea (g : Fb) (k : Nat) : (s.setFb g).ea k = s.ea k := rfl

/-! ### setMode -/

@[simp] theorem setMode_v (m : Mode) : (s.setMode m).v = s.v := rfl
@[simp] theorem setMode_i (m : Mode) : (s.setMode m).i = s.i := rfl
@[simp] theorem setMode_pc (m : Mode) : (s.setMode m).pc = s.pc := rfl
@[simp] theorem setMode_sp (m : Mode) : (s.setMode m).sp = s.sp := rfl
@[simp] theorem setMode_stack (m : Mode) : (s.setMode m).stack = s.stack := rfl
@[simp] theorem setMode_dt (m : Mode) : (s.setMode m).dt = s.dt := rfl
@[simp] theorem setMode_st (m : Mode) : (s.setMode m).st = s.st := rfl
@[simp] theorem setMode_hp (m : Mode) : (s.setMode m).hp = s.hp := rfl
@[simp] theorem setMode_halt (m : Mode) : (s.setMode m).halt = s.halt := rfl
@[simp] theorem setMode_mode (m : Mode) : (s.setMode m).mode = m := rfl
@[simp] theorem setMode_fault (m : Mode) : (s.setMode m).fault = s.fault := rfl
@[simp] theorem setMode_mem (m : Mode) : (s.setMode m).mem = s.mem := rfl
@[simp] theorem setMode_fb (m : Mode) : (s.setMode m).fb = s.fb := rfl
@[simp] theorem setMode_wait (m : Mode) : (s.setMode m).wait = s.wait := rfl
@[simp] theorem setMode_inputs (m : Mode) : (s.setMode m).inputs = s.inputs := rfl
@[simp] theorem setMode_draws (m : Mode) : (s.setMode m).draws = s.draws := rfl
@[simp] theorem setMode_getV (m : Mode) (r : RegIdx) : (s.setMode m).getV r = s.getV r := rfl
@[simp] theorem setMode_getHp (m : Mode) (k : Fin 8) : (s.setMode m).getHp k = s.getHp k := rfl
@[simp] theorem setMode_memRead (m : Mode) (a : Nat) : (s.setMode m).memRead a = s.memRead a := rfl
@[simp] theorem setMode_ea (m : Mode) (k : Nat) : (s.setMode m).ea k = s.ea k := rfl

/-! ### fbClear -/

@[simp] theorem fbClear_v : (s.fbClear).v = s.v := rfl
@[simp] theorem fbClear_i : (s.fbClear).i = s.i := rfl
@[simp] theorem fbClear_pc : (s.fbClear).pc = s.pc := rfl
@[simp] theorem fbClear_sp : (s.fbClear).sp = s.sp := rfl
@[simp] theorem fbClear_stack : (s.fbClear).stack = s.stack := rfl
@[simp] theorem fbClear_dt : (s.fbClear).dt = s.dt := rfl
@[simp] theorem fbClear_st : (s.fbClear).st = s.st := rfl
@[simp] theorem fbClear_hp : (s.fbClear).hp = s.hp := rfl
@[simp] theorem fbClear_halt : (s.fbClear).halt = s.halt := rfl
@[simp] theorem fbClear_mode : (s.fbClear).mode = s.mode := rfl
@[simp] theorem fbClear_fault : (s.fbClear).fault = s.fault := rfl
@[simp] theorem fbClear_mem : (s.fbClear).mem = s.mem := rfl
@[simp] theorem fbClear_fb : (s.fbClear).fb = Fb.blank := rfl
@[simp] theorem fbClear_wait : (s.fbClear).wait = s.wait := rfl
@[simp] theorem fbClear_inputs : (s.fbClear).inputs = s.inputs := rfl
@[simp] theorem fbClear_draws : (s.fbClear).draws = s.draws := rfl
@[simp] theorem fbClear_getV (r : RegIdx) : (s.fbClear).getV r = s.getV r := rfl
@[simp] theorem fbClear_getHp (k : Fin 8) : (s.fbClear).getHp k = s.getHp k := rfl
@[simp] theorem fbClear_memRead (a : Nat) : (s.fbClear).memRead a = s.memRead a := rfl
@[simp] theorem fbClear_ea (k : Nat) : (s.fbClear).ea k = s.ea k := rfl

end Sys2Proof.Machine
end

