-- ==== Sys2Proof/Laws/Operands.lean ====
section
/-! SUPPORT. What the operand and flag operations do: reading a register after writing one, program counter values, the
two writes of an arithmetic result and its flag. -/
namespace Sys2Proof.Machine

/-! ### Registers -/

@[simp] theorem getV_setV_same (s : State) (r : RegIdx) (b : Byte) : (s.setV r b).getV r = b := by
  simp [State.getV, State.setV]

theorem getV_setV (s : State) (r q : RegIdx) (b : Byte) :
    (s.setV r b).getV q = if q = r then b else s.getV q := by
  by_cases h : q = r
  · simp [h]
  · have hne : r.val ≠ q.val := fun e => h (Fin.ext e.symm)
    simp [State.getV, State.setV, Vector.getElem_set_ne _ _ hne, h]

theorem getV_setV_ne (s : State) {r q : RegIdx} (b : Byte) (h : q ≠ r) : (s.setV r b).getV q = s.getV q := by
  simp [getV_setV, h]

@[simp] theorem getHp_setHp_same (s : State) (k : Fin 8) (b : Byte) : (s.setHp k b).getHp k = b := by
  simp [State.getHp, State.setHp]

theorem getHp_setHp (s : State) (k j : Fin 8) (b : Byte) :
    (s.setHp k b).getHp j = if j = k then b else s.getHp j := by
  by_cases h : j = k
  · simp [h]
  · have hne : k.val ≠ j.val := fun e => h (Fin.ext e.symm)
    simp [State.getHp, State.setHp, Vector.getElem_set_ne _ _ hne, h]

/-- A write to a register changes nothing but the registers. -/
theorem setV_frame (s : State) (r : RegIdx) (b : Byte) : s.setV r b = { s with v := (s.setV r b).v } := rfl

theorem mem_regsUpTo {k x : RegIdx} : k ∈ regsUpTo x ↔ k ≤ x := by
  simp only [regsUpTo, List.mem_map, List.mem_range]
  constructor
  · rintro ⟨a, ha, rfl⟩
    rw [Fin.le_def, Fin.val_ofNat]
    omega
  · intro h
    refine ⟨k.val, by rw [Fin.le_def] at h; omega, Fin.ext ?_⟩
    rw [Fin.val_ofNat]
    omega

theorem regsUpTo_nodup (x : RegIdx) : (regsUpTo x).Nodup := by
  refine List.Nodup.map_on (fun a ha b hb hab => ?_) List.nodup_range
  have := congrArg Fin.val hab
  simp only [Fin.val_ofNat, List.mem_range] at *
  omega

theorem hpOf_injOn {j k : RegIdx} (hj : j.val < 8) (hk : k.val < 8) (h : hpOf j = hpOf k) : j = k := by
  have := congrArg Fin.val h
  simp only [hpOf, Fin.val_ofNat] at this
  exact Fin.ext (by omega)

/-! ### Program counter and index register -/

theorem pcOf_toNat (n : Nat) : (pcOf n).toNat = n % 4096 := by
  simp only [pcOf, BitVec.toNat_ofNat, Config.memSize]
  omega

theorem pcOf_lt (n : Nat) : (pcOf n).toNat < 4096 := by
  rw [pcOf_toNat]
  omega

theorem ea_lt (s : State) (k : Nat) : s.ea k < Config.memSize := Nat.mod_lt _ (by decide)

@[simp] theorem ea_mod (s : State) (k : Nat) : s.ea k % Config.memSize = s.ea k := Nat.mod_mod _ _

/-- Offsets below the size of memory give different addresses. -/
theorem ea_inj (s : State) {j k : Nat} (hj : j < 4096) (hk : k < 4096) (h : s.ea j = s.ea k) : j = k := by
  simp only [State.ea, Config.memSize] at h
  omega

/-! ### Flags -/

theorem flagByte_eq (c : Bool) : flagByte c = 0#8 ∨ flagByte c = 1#8 := by cases c <;> simp [flagByte]

theorem addFlag_eq (a b : Byte) : addFlag a b = if 255 < a.toNat + b.toNat then 1#8 else 0#8 := by
  have ha := a.isLt
  simp only [addFlag, flagByte, decide_eq_true_eq]
  congr 1
  exact propext (by omega)

theorem subFlag_eq (a b : Byte) : subFlag a b = if b.toNat < a.toNat then 1#8 else 0#8 := by
  simp [subFlag, flagByte]

theorem addixFlag_eq (i : Addr) (a : Byte) : addixFlag i a = if 4095 < i.toNat + a.toNat then 1#8 else 0#8 := by
  have ha := a.isLt
  simp only [addixFlag, flagByte, decide_eq_true_eq]
  congr 1
  exact propext (by omega)

/-- The two writes when x is not the flag register: both land, nothing is drawn. -/
theorem setResultAndFlag_ne (s : State) (op : FlagOp) {x : RegIdx} (r f : Byte) (h : x ≠ flagReg) :
    s.setResultAndFlag op x r f = (s.setV x r).setV flagReg f := by
  simp [State.setResultAndFlag, h]

/-- The two writes when x is the flag register: the one the free choice puts last. -/
theorem setResultAndFlag_flagReg (s : State) (op : FlagOp) (r f : Byte) :
    s.setResultAndFlag op flagReg r f =
      (s.setV flagReg (match Config.vfOrder op s.draws with | .flagLast => f | .resultLast => r)).drawnChoice :=
  if_pos rfl

/-- The two writes change nothing but registers and the count of draws. -/
theorem setResultAndFlag_frame (s : State) (op : FlagOp) (x : RegIdx) (r f : Byte) :
    s.setResultAndFlag op x r f =
      { s with v := (s.setResultAndFlag op x r f).v, draws := (s.setResultAndFlag op x r f).draws } := by
  by_cases h : x = flagReg
  · subst h
    rw [setResultAndFlag_flagReg]
    rfl
  · rw [setResultAndFlag_ne _ _ _ _ h]
    rfl

/-- A register that is neither the destination nor the flag register keeps its value. -/
theorem setResultAndFlag_getV_other (s : State) (op : FlagOp) {x q : RegIdx} (r f : Byte) (hx : q ≠ x)
    (hf : q ≠ flagReg) : (s.setResultAndFlag op x r f).getV q = s.getV q := by
  by_cases h : x = flagReg
  · subst h
    rw [setResultAndFlag_flagReg, drawnChoice_getV, getV_setV_ne _ _ hf]
  · rw [setResultAndFlag_ne _ _ _ _ h, getV_setV_ne _ _ hf, getV_setV_ne _ _ hx]

end Sys2Proof.Machine
end

