-- ==== Sys2Proof/Laws/Framebuffer.lean ====
section
/-! SUPPORT. What the framebuffer operations do to each pixel: setting a pixel, tabulating a grid, compositing a row,
compositing a sprite. -/
namespace Sys2Proof.Machine

theorem Mode.width_le (m : Mode) : m.width ≤ 128 := by cases m <;> decide

theorem Mode.height_le (m : Mode) : m.height ≤ 64 := by cases m <;> decide

theorem Mode.width_pos (m : Mode) : 0 < m.width := by cases m <;> decide

theorem Mode.height_ge (m : Mode) : 32 ≤ m.height := by cases m <;> decide

theorem Mode.inRect_iff (m : Mode) (x y : Nat) : m.inRect x y = true ↔ x < m.width ∧ y < m.height := by
  simp [Mode.inRect]

/-! ### Pixels of a row and of a grid -/

theorem getLsbD_rowSet (row : BitVec 128) {x : Nat} (hx : x < 128) (b : Bool) (k : Nat) :
    (rowSet row x b).getLsbD k = if k = x then b else row.getLsbD k := by
  unfold rowSet
  rcases b with _ | _
  · simp only [Bool.false_eq_true, if_false, BitVec.getLsbD_and, BitVec.getLsbD_not, BitVec.getLsbD_twoPow]
    by_cases hk : k = x
    · subst hk; simp [hx]
    · have : ¬ x = k := fun e => hk e.symm
      by_cases hk128 : k < 128
      · simp [hk, this, hk128]
      · simp [hk, BitVec.getLsbD_of_ge _ _ (not_lt.1 hk128)]
  · simp only [if_true, BitVec.getLsbD_or, BitVec.getLsbD_twoPow]
    by_cases hk : k = x
    · subst hk; simp [hx]
    · have : ¬ x = k := fun e => hk e.symm
      simp [hk, this]

theorem bitsBelow_lt (f : Nat → Bool) (n : Nat) : bitsBelow f n < 2 ^ n := by
  induction n with
  | zero => simp [bitsBelow]
  | succ n ih =>
    simp only [bitsBelow, pow_succ]
    split <;> omega

theorem testBit_bitsBelow (f : Nat → Bool) (n k : Nat) : (bitsBelow f n).testBit k = (decide (k < n) && f k) := by
  induction n with
  | zero => simp [bitsBelow]
  | succ n ih =>
    have hlt := bitsBelow_lt f n
    simp only [bitsBelow]
    by_cases hk : k = n
    · subst hk
      cases hf : f k
      · simp [Nat.testBit_lt_two_pow hlt]
      · simp only [if_true, Nat.testBit_two_pow_add_eq, Nat.testBit_lt_two_pow hlt]
        simp
    · cases hf : f n
      · simp only [Bool.false_eq_true, if_false, Nat.zero_add, ih]
        congr 1
        exact decide_eq_decide.2 (by omega)
      · simp only [if_true]
        rcases Nat.lt_or_gt_of_ne hk with h | h
        · rw [Nat.testBit_two_pow_add_gt h, ih]
          congr 1
          exact decide_eq_decide.2 (by omega)
        · have : 2 ^ n + bitsBelow f n < 2 ^ k :=
            lt_of_lt_of_le (by rw [pow_succ]; omega) (Nat.pow_le_pow_right (by decide) h)
          rw [Nat.testBit_lt_two_pow this]
          have : ¬ k < n + 1 := by omega
          simp [this]

/-- Each pixel of a tabulated grid. -/
theorem pixel_tabulate (f : Nat → Nat → Bool) {x y : Nat} (hx : x < 128) (hy : y < 64) :
    Fb.pixel (Fb.tabulate f) x y = f x y := by
  simp only [Fb.pixel, Fb.row, Fb.tabulate, Vector.getElem?_eq_getElem hy, Vector.getElem_ofFn, Option.getD_some,
    BitVec.getLsbD_ofNat, testBit_bitsBelow, hx, decide_true, Bool.true_and]

theorem pixel_outside (fb : Fb) {x y : Nat} (h : ¬ (x < 128 ∧ y < 64)) : Fb.pixel fb x y = false := by
  unfold Fb.pixel Fb.row
  by_cases hx : x < 128
  · have hy : 64 ≤ y := by omega
    rw [Vector.getElem?_eq_none hy]
    simp
  · exact BitVec.getLsbD_of_ge _ _ (not_lt.1 hx)

@[simp] theorem pixel_blank (x y : Nat) : Fb.pixel Fb.blank x y = false := by
  by_cases h : x < 128 ∧ y < 64
  · simp [Fb.pixel, Fb.row, Fb.blank, h.2]
  · exact pixel_outside _ h

theorem row_setIfInBounds (fb : Fb) (row : BitVec 128) {y : Nat} (hy : y < 64) (k : Nat) :
    Fb.row (fb.setIfInBounds y row) k = if k = y then row else Fb.row fb k := by
  by_cases hk : k = y
  · subst hk; simp [Fb.row, hy]
  · have : ¬ y = k := fun e => hk e.symm
    simp [Fb.row, hk, this]

/-! ### Unpacking and compositing one row -/

@[simp] theorem length_unpack {cnt : Nat} (bits : BitVec cnt) : (unpack bits).length = cnt := by simp [unpack]

theorem getD_unpack {cnt : Nat} (bits : BitVec cnt) {i : Nat} (h : i < cnt) :
    (unpack bits).getD i false = bits.getLsbD (cnt - 1 - i) := by
  simp [unpack, List.getD, h]

/-- The pixels of a row after the loop: XOR with the sprite bit where the sprite covers a column of the mode rectangle,
the old pixel elsewhere. -/
theorem getLsbD_drawBits (m : Mode) (bs : List Bool) : ∀ (px : Nat) (acc : BitVec 128 × Bool) (k : Nat),
    (drawBits m bs px acc).1.getLsbD k =
      (acc.1.getLsbD k ^^ (decide (k < m.width) && decide (px ≤ k) && bs.getD (k - px) false)) := by
  induction bs with
  | nil => intro px acc k; simp [drawBits]
  | cons b bs ih =>
    intro px acc k
    have hw := m.width_le
    rw [drawBits]
    split
    · rename_i hpx
      rw [ih]
      simp only [getLsbD_rowSet _ (lt_of_lt_of_le hpx hw)]
      by_cases hk : k = px
      · subst hk
        simp [hpx]
      · rcases Nat.lt_or_gt_of_ne hk with h | h
        · have h1 : ¬ px + 1 ≤ k := by omega
          have h2 : ¬ px ≤ k := by omega
          simp [hk, h1, h2]
        · have h1 : px + 1 ≤ k := by omega
          have h2 : px ≤ k := by omega
          obtain ⟨j, hj⟩ : ∃ j, k - px = j + 1 := ⟨k - px - 1, by omega⟩
          have hj' : k - (px + 1) = j := by omega
          simp [hk, h1, h2, hj, hj']
    · rename_i hpx
      rw [ih]
      by_cases hk : k < m.width
      · have h1 : ¬ px + 1 ≤ k := by omega
        have h2 : ¬ px ≤ k := by omega
        simp [h1, h2]
      · simp [hk]

/-- The collision of the loop: the old one, or some column of the mode rectangle with old pixel and sprite bit both 1. -/
theorem snd_drawBits (m : Mode) (bs : List Bool) : ∀ (px : Nat) (acc : BitVec 128 × Bool),
    (drawBits m bs px acc).2 = true ↔ acc.2 = true ∨
      ∃ i, px + i < m.width ∧ acc.1.getLsbD (px + i) = true ∧ bs.getD i false = true := by
  induction bs with
  | nil => intro px acc; simp [drawBits]
  | cons b bs ih =>
    intro px acc
    have hw := m.width_le
    rw [drawBits]
    split
    · rename_i hpx
      rw [ih]
      simp only [getLsbD_rowSet _ (lt_of_lt_of_le hpx hw), Bool.or_eq_true, Bool.and_eq_true]
      constructor
      · rintro ((h | h) | ⟨i, hi, h1, h2⟩)
        · exact .inl h
        · exact .inr ⟨0, by simpa using hpx, by simpa using h.1, by simpa using h.2⟩
        · refine .inr ⟨i + 1, by omega, ?_, by simpa using h2⟩
          have hne : ¬ px + 1 + i = px := by omega
          rw [if_neg hne] at h1
          rwa [show px + (i + 1) = px + 1 + i by omega]
      · rintro (h | ⟨i, hi, h1, h2⟩)
        · exact .inl (.inl h)
        · cases i with
          | zero => exact .inl (.inr ⟨by simpa using h1, by simpa using h2⟩)
          | succ i =>
            refine .inr ⟨i, by omega, ?_, by simpa using h2⟩
            have hne : ¬ px + 1 + i = px := by omega
            rw [if_neg hne, show px + 1 + i = px + (i + 1) by omega]
            exact h1
    · rename_i hpx
      rw [ih]
      constructor
      · rintro (h | ⟨i, hi, _⟩)
        · exact .inl h
        · omega
      · rintro (h | ⟨i, hi, _⟩)
        · exact .inl h
        · omega

/-- Whether a row of cnt sprite bits placed at column x has a 1 over column k. -/
def rowBit {cnt : Nat} (bits : BitVec cnt) (x k : Nat) : Bool :=
  decide (x ≤ k) && decide (k < x + cnt) && bits.getLsbD (cnt - 1 - (k - x))

theorem getD_unpack_eq_rowBit {cnt : Nat} (bits : BitVec cnt) {x k : Nat} (h : x ≤ k) :
    (unpack bits).getD (k - x) false = rowBit bits x k := by
  by_cases hk : k < x + cnt
  · rw [getD_unpack _ (by omega)]
    simp [rowBit, h, hk]
  · rw [List.getD_eq_default _ _ (by simp; omega)]
    simp [rowBit, hk]

/-- FbDrawLine, pixel by pixel (45_draw_framebuffer.md R164). -/
theorem pixel_drawLine (m : Mode) (fb : Fb) (x : Nat) {y : Nat} (hy : y < m.height) {cnt : Nat} (bits : BitVec cnt)
    (k j : Nat) :
    Fb.pixel (Fb.drawLine m fb x y bits).1 k j =
      (Fb.pixel fb k j ^^ (decide (j = y) && decide (k < m.width) && rowBit bits x k)) := by
  have hh := m.height_le
  unfold Fb.pixel Fb.drawLine
  rw [row_setIfInBounds _ _ (lt_of_lt_of_le hy hh)]
  by_cases hj : j = y
  · subst hj
    rw [if_pos rfl, getLsbD_drawBits]
    by_cases hx : x ≤ k
    · rw [getD_unpack_eq_rowBit bits hx]
      simp [hx, Fb.row]
    · simp [hx, rowBit]
  · simp [hj]

/-- FbDrawLine's collision (45_draw_framebuffer.md R164). -/
theorem snd_drawLine (m : Mode) (fb : Fb) (x y : Nat) {cnt : Nat} (bits : BitVec cnt) :
    (Fb.drawLine m fb x y bits).2 = true ↔
      ∃ k, k < m.width ∧ Fb.pixel fb k y = true ∧ rowBit bits x k = true := by
  unfold Fb.drawLine
  rw [snd_drawBits]
  simp only [Bool.false_eq_true, false_or]
  constructor
  · rintro ⟨i, hi, h1, h2⟩
    refine ⟨x + i, hi, h1, ?_⟩
    rw [← getD_unpack_eq_rowBit bits (Nat.le_add_right x i)]
    simpa using h2
  · rintro ⟨k, hk, h1, h2⟩
    have hx : x ≤ k := by
      simp only [rowBit, Bool.and_eq_true, decide_eq_true_eq] at h2
      exact h2.1.1
    refine ⟨k - x, by omega, by rwa [show x + (k - x) = k by omega], ?_⟩
    rw [getD_unpack_eq_rowBit bits hx]
    exact h2

/-! ### Compositing a sprite -/

/-- The list of rows left is composited pixel by pixel: a row of the list that falls on line j acts on it, once, because
the rows fall on different lines. -/
theorem pixel_drawRows (m : Mode) (x0 vy : Nat) {cnt : Nat} (sprite : Nat → BitVec cnt) (k j : Nat) (rs : List Nat) :
    ∀ acc : Fb × Bool, rs.Nodup → (∀ r ∈ rs, r < m.height) →
      Fb.pixel (Fb.drawRows m x0 vy sprite rs acc).1 k j =
        (Fb.pixel acc.1 k j ^^ (decide (k < m.width) &&
          rs.any fun r => decide (j = (vy + r) % m.height) && rowBit (sprite r) x0 k)) := by
  have hpos : 0 < m.height := lt_of_lt_of_le (by decide) m.height_ge
  induction rs with
  | nil => intro acc _ _; simp [Fb.drawRows]
  | cons r rs ih =>
    intro acc hn hr
    rw [List.nodup_cons] at hn
    rw [Fb.drawRows, ih _ hn.2 fun q hq => hr q (List.mem_cons_of_mem _ hq)]
    simp only
    rw [pixel_drawLine _ _ _ (Nat.mod_lt _ hpos)]
    by_cases hj : j = (vy + r) % m.height
    · have hrest : (rs.any fun q => decide (j = (vy + q) % m.height) && rowBit (sprite q) x0 k) = false := by
        rw [List.any_eq_false]
        intro q hq
        have hqr : q ≠ r := fun e => hn.1 (e ▸ hq)
        have hq' := hr q (List.mem_cons_of_mem _ hq)
        have hr' := hr r List.mem_cons_self
        have hne : ¬ j = (vy + q) % m.height := by
          rw [hj]
          intro e
          have hmod : (vy + q) ≡ (vy + r) [MOD m.height] := e.symm
          have h2 := Nat.ModEq.add_left_cancel' vy hmod
          exact hqr (Nat.ModEq.eq_of_lt_of_lt h2 hq' hr')
        simp [hne]
      rw [List.any_cons, hrest]
      simp [hj]
    · simp [List.any_cons, hj]

/-- The collision of a sprite: the old one, or some pixel that was set and gets a sprite bit. -/
theorem snd_drawRows (m : Mode) (x0 vy : Nat) {cnt : Nat} (sprite : Nat → BitVec cnt) (rs : List Nat) :
    ∀ acc : Fb × Bool, rs.Nodup → (∀ r ∈ rs, r < m.height) →
      ((Fb.drawRows m x0 vy sprite rs acc).2 = true ↔ acc.2 = true ∨
        ∃ r ∈ rs, ∃ k, k < m.width ∧ Fb.pixel acc.1 k ((vy + r) % m.height) = true ∧
          rowBit (sprite r) x0 k = true) := by
  have hpos : 0 < m.height := lt_of_lt_of_le (by decide) m.height_ge
  induction rs with
  | nil => intro acc _ _; simp [Fb.drawRows]
  | cons r rs ih =>
    intro acc hn hr
    rw [List.nodup_cons] at hn
    rw [Fb.drawRows, ih _ hn.2 fun q hq => hr q (List.mem_cons_of_mem _ hq)]
    have hkeep : ∀ q ∈ rs, ∀ k, Fb.pixel (Fb.drawLine m acc.1 x0 ((vy + r) % m.height) (sprite r)).1 k
        ((vy + q) % m.height) = Fb.pixel acc.1 k ((vy + q) % m.height) := by
      intro q hq k
      have hqr : q ≠ r := fun e => hn.1 (e ▸ hq)
      have hne : ¬ (vy + q) % m.height = (vy + r) % m.height := by
        intro e
        have hmod : (vy + q) ≡ (vy + r) [MOD m.height] := e
        exact hqr (Nat.ModEq.eq_of_lt_of_lt (Nat.ModEq.add_left_cancel' vy hmod)
          (hr q (List.mem_cons_of_mem _ hq)) (hr r List.mem_cons_self))
      rw [pixel_drawLine _ _ _ (Nat.mod_lt _ hpos)]
      simp [hne]
    simp only [Bool.or_eq_true, snd_drawLine, List.mem_cons, exists_eq_or_imp]
    rw [or_assoc]
    refine or_congr_right (or_congr_right (exists_congr fun q => and_congr_right fun hq => ?_))
    exact exists_congr fun k => by rw [hkeep q hq k]

end Sys2Proof.Machine
end

