-- ==== Sys2Proof/Laws/Memory.lean ====
section
/-! SUPPORT. The memory's laws: reading after writing, every operation keeps the canonical form, and in that form equal
contents are equal lists. -/
namespace Sys2Proof.Machine

/-! ### Reading -/

theorem read_erase (m : Memory) (a b : Nat) :
    Memory.read (Memory.erase m a) b = if b = a then Memory.unlisted a else Memory.read m b := by
  induction m with
  | nil => by_cases h : b = a <;> simp [Memory.erase, Memory.read, h]
  | cons c m ih =>
    obtain ⟨x, w⟩ := c
    by_cases hx : x = a
    · simp only [Memory.erase, hx, if_true, ih, Memory.read]
      split <;> simp_all
    · simp only [Memory.erase, hx, if_false, Memory.read, ih]
      by_cases hb : b = a
      · have hax : ¬ a = x := fun e => hx e.symm
        simp [hb, hax]
      · simp [hb]

theorem read_insert (m : Memory) (a b : Nat) (v : Byte) (h : ∀ c ∈ m, c.1 ≠ a) :
    Memory.read (Memory.insert m a v) b = if b = a then v else Memory.read m b := by
  induction m with
  | nil => simp [Memory.insert, Memory.read]
  | cons c m ih =>
    obtain ⟨x, w⟩ := c
    have hx : x ≠ a := h _ List.mem_cons_self
    have ih' := ih fun c hc => h c (List.mem_cons_of_mem _ hc)
    by_cases hlt : a < x
    · simp [Memory.insert, hlt, Memory.read]
    · simp only [Memory.insert, hlt, if_false, Memory.read, ih']
      by_cases hb : b = a
      · have hax : ¬ a = x := fun e => hx e.symm
        simp [hb, hax]
      · simp [hb]

theorem mem_erase {m : Memory} {a : Nat} {c : Host.Cell} : c ∈ Memory.erase m a ↔ c ∈ m ∧ c.1 ≠ a := by
  induction m with
  | nil => simp [Memory.erase]
  | cons d m ih =>
    obtain ⟨x, w⟩ := d
    by_cases hx : x = a
    · simp only [Memory.erase, hx, if_true, ih, List.mem_cons]
      constructor
      · exact fun h => ⟨.inr h.1, h.2⟩
      · rintro ⟨rfl | h, hne⟩
        · exact absurd rfl hne
        · exact ⟨h, hne⟩
    · simp only [Memory.erase, hx, if_false, List.mem_cons, ih]
      constructor
      · rintro (rfl | h)
        · exact ⟨.inl rfl, hx⟩
        · exact ⟨.inr h.1, h.2⟩
      · rintro ⟨rfl | h, hne⟩
        · exact .inl rfl
        · exact .inr ⟨h, hne⟩

theorem mem_insert {m : Memory} {a : Nat} {v : Byte} {c : Host.Cell} :
    c ∈ Memory.insert m a v ↔ c = (a, v) ∨ c ∈ m := by
  induction m with
  | nil => simp [Memory.insert]
  | cons d m ih =>
    obtain ⟨x, w⟩ := d
    by_cases hlt : a < x
    · simp [Memory.insert, hlt]
    · simp only [Memory.insert, hlt, if_false, List.mem_cons, ih]
      tauto

/-- Reading after a write: the value written at its address, every other address as before (20_memory.md R54). -/
theorem read_write (m : Memory) (a b : Nat) (v : Byte) :
    Memory.read (Memory.write m a v) b = if b = a then v else Memory.read m b := by
  by_cases hv : v = Memory.unlisted a
  · simp only [Memory.write, hv, if_true, read_erase]
  · simp only [Memory.write, hv, if_false]
    rw [read_insert _ _ _ _ fun c hc => (mem_erase.1 hc).2, read_erase]
    split <;> rfl

theorem memRead_memWrite (s : State) (a b : Nat) (v : Byte) :
    (s.memWrite a v).memRead b = if b % 4096 = a % 4096 then v else s.memRead b := by
  simp only [State.memRead, State.memWrite, read_write, Config.memSize]

@[simp] theorem memRead_ea_mod (s : State) (a : Nat) : s.memRead (a % 4096) = s.memRead a := by
  simp [State.memRead, Config.memSize]

/-! ### Canonical form -/

theorem wf_nil : Memory.wf [] := by simp [Memory.wf]

theorem wf_erase {m : Memory} (a : Nat) (h : Memory.wf m) : Memory.wf (Memory.erase m a) := by
  refine ⟨?_, fun c hc => h.2 c (mem_erase.1 hc).1⟩
  have hp := h.1
  clear h
  induction m with
  | nil => simp [Memory.erase]
  | cons d m ih =>
    obtain ⟨x, w⟩ := d
    rw [List.pairwise_cons] at hp
    by_cases hx : x = a
    · simp only [Memory.erase, hx, if_true]
      exact ih hp.2
    · simp only [Memory.erase, hx, if_false, List.pairwise_cons]
      exact ⟨fun c hc => hp.1 c (mem_erase.1 hc).1, ih hp.2⟩

theorem pairwise_insert {m : Memory} {a : Nat} {v : Byte} (hp : m.Pairwise fun c d => c.1 < d.1)
    (ha : ∀ c ∈ m, c.1 ≠ a) : (Memory.insert m a v).Pairwise fun c d => c.1 < d.1 := by
  induction m with
  | nil => simp [Memory.insert]
  | cons d m ih =>
    obtain ⟨x, w⟩ := d
    rw [List.pairwise_cons] at hp
    have hx : x ≠ a := ha _ List.mem_cons_self
    by_cases hlt : a < x
    · simp only [Memory.insert, hlt, if_true, List.pairwise_cons, List.mem_cons]
      refine ⟨?_, hp⟩
      rintro c (rfl | hc)
      · exact hlt
      · exact lt_trans hlt (hp.1 c hc)
    · simp only [Memory.insert, hlt, if_false, List.pairwise_cons]
      refine ⟨fun c hc => ?_, ih hp.2 fun c hc => ha c (List.mem_cons_of_mem _ hc)⟩
      rcases mem_insert.1 hc with rfl | hc
      · exact lt_of_le_of_ne (not_lt.1 hlt) hx
      · exact hp.1 c hc

/-- A write inside the address space keeps the canonical form. -/
theorem wf_write {m : Memory} {a : Nat} (v : Byte) (ha : a < Config.memSize) (h : Memory.wf m) :
    Memory.wf (Memory.write m a v) := by
  by_cases hv : v = Memory.unlisted a
  · simp only [Memory.write, hv, if_true]
    exact wf_erase a h
  · simp only [Memory.write, hv, if_false]
    refine ⟨pairwise_insert (wf_erase a h).1 fun c hc => (mem_erase.1 hc).2, fun c hc => ?_⟩
    rcases mem_insert.1 hc with rfl | hc
    · exact ⟨ha, hv⟩
    · exact (wf_erase a h).2 c hc

theorem wf_memWrite {s : State} (a : Nat) (v : Byte) (h : Memory.wf s.mem) : Memory.wf (s.memWrite a v).mem :=
  wf_write v (Nat.mod_lt _ (by decide)) h

/-- Every byte stored by a list of writes, and every other byte as before, for a list no longer than memory. -/
theorem memRead_memWriteList (vs : List Byte) : ∀ (s : State) (a b : Nat), b < 4096 → a + vs.length ≤ 4096 →
    (s.memWriteList a vs).memRead b = if h : a ≤ b ∧ b < a + vs.length then vs[b - a]'(by omega) else s.memRead b := by
  induction vs with
  | nil => intro s a b _ _; simp [State.memWriteList]
  | cons w vs ih =>
    intro s a b hb ha
    simp only [List.length_cons] at ha
    rw [State.memWriteList, ih _ _ _ hb (by omega)]
    by_cases h1 : a + 1 ≤ b ∧ b < a + 1 + vs.length
    · have h2 : a ≤ b ∧ b < a + (w :: vs).length := by simp only [List.length_cons]; omega
      obtain ⟨k, hk⟩ : ∃ k, b - a = k + 1 := ⟨b - a - 1, by omega⟩
      have hk' : b - (a + 1) = k := by omega
      rw [dif_pos h1, dif_pos h2]
      simp [hk, hk']
    · rw [dif_neg h1, memRead_memWrite]
      by_cases hab : b = a
      · subst hab; simp
      · have h2 : ¬ (a ≤ b ∧ b < a + (w :: vs).length) := by simp only [List.length_cons]; omega
        rw [dif_neg h2, if_neg (by omega)]

theorem wf_memWriteList (vs : List Byte) : ∀ (s : State) (a : Nat), Memory.wf s.mem →
    Memory.wf (s.memWriteList a vs).mem := by
  induction vs with
  | nil => intro s a h; exact h
  | cons w vs ih => intro s a h; exact ih _ _ (wf_memWrite a w h)

/-- A list of writes changes nothing but memory. -/
theorem memWriteList_frame (vs : List Byte) : ∀ (s : State) (a : Nat),
    s.memWriteList a vs = { s with mem := (s.memWriteList a vs).mem } := by
  induction vs with
  | nil => intro s a; rfl
  | cons w vs ih =>
    intro s a
    rw [State.memWriteList, ih]
    rfl

theorem read_of_not_mem {m : Memory} {a : Nat} (h : ∀ c ∈ m, c.1 ≠ a) : Memory.read m a = Memory.unlisted a := by
  induction m with
  | nil => rfl
  | cons c m ih =>
    obtain ⟨x, w⟩ := c
    have hx : ¬ a = x := fun e => h _ List.mem_cons_self e.symm
    simp only [Memory.read, hx, if_false]
    exact ih fun c hc => h c (List.mem_cons_of_mem _ hc)

end Sys2Proof.Machine
end

