-- ==== Sys2Proof/Laws/Ops.lean ====
section
/-! SUPPORT. What the shared operations of a step do: the pop, the timer phase, one poll of the key handshake, the block
loops, and the cases of one step. -/
namespace Sys2Proof.Machine

/-! ### Call stack -/

@[simp] theorem popPc_sp_val (s : State) (h : 0 < s.sp.val) : (s.popPc h).sp.val = s.sp.val - 1 := rfl

theorem popPc_pc (s : State) (h : 0 < s.sp.val) :
    (s.popPc h).pc = s.stack[s.sp.val - 1]'(Nat.lt_of_lt_of_le (Nat.sub_lt h Nat.one_pos) (Nat.le_of_lt_succ s.sp.isLt)) :=
  rfl

/-! ### Fetch -/

@[simp] theorem hiByte_fetch (s : State) : hiByte s.fetch = s.memRead s.pc.toNat := hiByte_wordOfBytes _ _

@[simp] theorem loByte_fetch (s : State) : loByte s.fetch = s.memRead (s.pc.toNat + 1) := loByte_wordOfBytes _ _

/-! ### Timer phase -/

theorem tick_toNat (t : Byte) : (tick t).toNat = t.toNat - 1 := by
  unfold tick
  by_cases h : t = 0#8
  · simp [h]
  · have hpos : 0 < t.toNat := Nat.pos_of_ne_zero fun e => h (BitVec.eq_of_toNat_eq (by simpa using e))
    rw [if_neg h, BitVec.toNat_sub]
    have := t.isLt
    have : (1#8).toNat = 1 := rfl
    omega

theorem timerPhase_of_completed {s : State} (h : s.completed = true) :
    s.timerPhase = (s.setDt (tick s.dt)).setSt (tick s.st) := by simp [State.timerPhase, h]

theorem timerPhase_of_not_completed {s : State} (h : s.completed = false) : s.timerPhase = s := by
  simp [State.timerPhase, h]

/-- The timer phase changes nothing but the timers. -/
theorem timerPhase_frame (s : State) :
    s.timerPhase = { s with dt := s.timerPhase.dt, st := s.timerPhase.st } := by
  unfold State.timerPhase
  split <;> rfl

/-! ### Key wait -/

theorem awaitKey_some {s : State} {k : Nibble} (x : RegIdx) (h : s.keyAnswer = some k) :
    s.awaitKey x = { s.drawnKeyWait.setV x (k.setWidth 8) with wait := none } := by simp [State.awaitKey, h]

theorem awaitKey_none {s : State} (x : RegIdx) (h : s.keyAnswer = none) :
    s.awaitKey x = { s.drawnKeyWait with wait := some x } := by simp [State.awaitKey, h]

/-- A poll changes nothing but the registers, the waiting condition and the model's own fields. -/
theorem awaitKey_frame (s : State) (x : RegIdx) :
    s.awaitKey x =
      { s with
        v := (s.awaitKey x).v, wait := (s.awaitKey x).wait, inputs := (s.awaitKey x).inputs,
        draws := (s.awaitKey x).draws } := by
  cases h : s.keyAnswer with
  | some k =>
    rw [awaitKey_some x h]
    rfl
  | none =>
    rw [awaitKey_none x h]
    rfl

/-! ### Block loops -/

/-- A block store changes nothing but memory. -/
theorem storeRegs_frame (ks : List RegIdx) : ∀ s : State, s.storeRegs ks = { s with mem := (s.storeRegs ks).mem } := by
  induction ks with
  | nil => intro s; rfl
  | cons k ks ih =>
    intro s
    rw [State.storeRegs, ih]
    rfl

theorem memRead_storeRegs_other (ks : List RegIdx) : ∀ (s : State) (a : Nat), (∀ k ∈ ks, a % 4096 ≠ s.ea k.val) →
    (s.storeRegs ks).memRead a = s.memRead a := by
  induction ks with
  | nil => intro s a _; rfl
  | cons k ks ih =>
    intro s a h
    have hk := h k List.mem_cons_self
    rw [State.storeRegs, ih (s.memWrite (s.ea k.val) (s.getV k)) a fun q hq => h q (List.mem_cons_of_mem _ hq),
      memRead_memWrite]
    have : ¬ a % 4096 = s.ea k.val % 4096 := by
      rw [show (4096 : Nat) = Config.memSize from rfl, ea_mod]
      exact hk
    rw [if_neg this]

theorem memRead_storeRegs_at (ks : List RegIdx) : ∀ (s : State) (k : RegIdx), ks.Nodup → k ∈ ks →
    (s.storeRegs ks).memRead (s.ea k.val) = s.getV k := by
  induction ks with
  | nil => intro s k _ hk; simp at hk
  | cons q ks ih =>
    intro s k hn hk
    rw [List.nodup_cons] at hn
    rw [State.storeRegs]
    by_cases hkq : k = q
    · subst hkq
      have hea : ∀ j, (s.memWrite (s.ea k.val) (s.getV k)).ea j = s.ea j := fun j => rfl
      rw [memRead_storeRegs_other, memRead_memWrite, if_pos rfl]
      intro j hj e
      rw [hea, show (4096 : Nat) = Config.memSize from rfl, ea_mod] at e
      have := ea_inj s (by omega) (by omega) e
      exact hn.1 (Fin.ext this ▸ hj)
    · have hk' : k ∈ ks := (List.mem_cons.1 hk).resolve_left hkq
      exact ih (s.memWrite (s.ea q.val) (s.getV q)) k hn.2 hk'

theorem wf_storeRegs (ks : List RegIdx) : ∀ s : State, Memory.wf s.mem → Memory.wf (s.storeRegs ks).mem := by
  induction ks with
  | nil => intro s h; exact h
  | cons k ks ih => intro s h; exact ih _ (wf_memWrite _ _ h)

/-- A block load changes nothing but the registers. -/
theorem loadRegs_frame (ks : List RegIdx) : ∀ s : State, s.loadRegs ks = { s with v := (s.loadRegs ks).v } := by
  induction ks with
  | nil => intro s; rfl
  | cons k ks ih =>
    intro s
    rw [State.loadRegs, ih]
    rfl

theorem getV_loadRegs (ks : List RegIdx) : ∀ (s : State) (r : RegIdx),
    (s.loadRegs ks).getV r = if r ∈ ks then s.memRead (s.ea r.val) else s.getV r := by
  induction ks with
  | nil => intro s r; simp [State.loadRegs]
  | cons k ks ih =>
    intro s r
    rw [State.loadRegs, ih]
    by_cases hr : r ∈ ks
    · simp [hr]
    · by_cases hrk : r = k
      · subst hrk; simp [hr]
      · simp [hr, hrk, getV_setV]

/-- An HP48 block store changes nothing but the HP48 bytes. -/
theorem storeHp_frame (ks : List RegIdx) : ∀ s : State, s.storeHp ks = { s with hp := (s.storeHp ks).hp } := by
  induction ks with
  | nil => intro s; rfl
  | cons k ks ih =>
    intro s
    rw [State.storeHp, ih]
    rfl

theorem getHp_storeHp_other (ks : List RegIdx) : ∀ (s : State) (j : Fin 8), (∀ k ∈ ks, j ≠ hpOf k) →
    (s.storeHp ks).getHp j = s.getHp j := by
  induction ks with
  | nil => intro s j _; rfl
  | cons k ks ih =>
    intro s j h
    rw [State.storeHp, ih _ _ fun q hq => h q (List.mem_cons_of_mem _ hq), getHp_setHp,
      if_neg (h k List.mem_cons_self)]

theorem getHp_storeHp_at (ks : List RegIdx) : ∀ (s : State) (k : RegIdx), ks.Nodup → (∀ q ∈ ks, q.val < 8) → k ∈ ks →
    (s.storeHp ks).getHp (hpOf k) = s.getV k := by
  induction ks with
  | nil => intro s k _ _ hk; simp at hk
  | cons q ks ih =>
    intro s k hn h8 hk
    rw [List.nodup_cons] at hn
    rw [State.storeHp]
    by_cases hkq : k = q
    · subst hkq
      rw [getHp_storeHp_other, getHp_setHp_same]
      intro j hj e
      have := hpOf_injOn (h8 k List.mem_cons_self) (h8 j (List.mem_cons_of_mem _ hj)) e
      exact hn.1 (this ▸ hj)
    · have hk' : k ∈ ks := (List.mem_cons.1 hk).resolve_left hkq
      exact ih (s.setHp (hpOf q) (s.getV q)) k hn.2 (fun j hj => h8 j (List.mem_cons_of_mem _ hj)) hk'

/-- An HP48 block load changes nothing but the registers. -/
theorem loadHp_frame (ks : List RegIdx) : ∀ s : State, s.loadHp ks = { s with v := (s.loadHp ks).v } := by
  induction ks with
  | nil => intro s; rfl
  | cons k ks ih =>
    intro s
    rw [State.loadHp, ih]
    rfl

theorem getV_loadHp (ks : List RegIdx) : ∀ (s : State) (r : RegIdx),
    (s.loadHp ks).getV r = if r ∈ ks then s.getHp (hpOf r) else s.getV r := by
  induction ks with
  | nil => intro s r; simp [State.loadHp]
  | cons k ks ih =>
    intro s r
    rw [State.loadHp, ih]
    by_cases hr : r ∈ ks
    · simp [hr]
    · by_cases hrk : r = k
      · subst hrk; simp [hr]
      · simp [hr, hrk, getV_setV]

/-! ### One step -/

/-- What one step that answers a next state can have done: nothing, because the core is halted or faulted; one more poll of
a waiting Fx0A; an illegal word; or the body of a decoded instruction and the timer phase. -/
theorem step_cases {s t : State} (h : step s = .next t) :
    (s.stopped = true ∧ t = s) ∨
    (s.stopped = false ∧ ∃ x, s.wait = some x ∧ t = (s.awaitKey x).timerPhase) ∨
    (s.stopped = false ∧ s.wait = none ∧ decode s.fetch = none ∧ t = s.preAdvance.raise .unknownOpcode s.fetch) ∨
    (s.stopped = false ∧ s.wait = none ∧ ∃ i u, decode s.fetch = some i ∧ exec i s.preAdvance = .next u ∧
      t = u.timerPhase) := by
  unfold step at h
  split at h
  · rename_i hs
    injection h with h
    exact .inl ⟨hs, h.symm⟩
  · rename_i hs
    have hs' : s.stopped = false := by simpa using hs
    split at h
    · rename_i x hx
      injection h with h
      exact .inr (.inl ⟨hs', x, hx, h.symm⟩)
    · rename_i hw
      split at h
      · rename_i hd
        injection h with h
        exact .inr (.inr (.inl ⟨hs', hw, hd, h.symm⟩))
      · rename_i i hd
        split at h
        · rename_i u hu
          injection h with h
          exact .inr (.inr (.inr ⟨hs', hw, i, u, hd, hu, h.symm⟩))
        · simp at h
        · simp at h

end Sys2Proof.Machine
end

