-- ==== Sys2Proof/Laws/Exec.lean ====
section
/-! SUPPORT. The fields that the compound operations leave alone, and the meaning of every instruction as one equation: a
proof over all instructions rewrites with these and never unfolds a meaning. -/
namespace Sys2Proof.Machine

variable (s : State)

/-! ### setResultAndFlag -/

@[simp] theorem setResultAndFlag_i (op : FlagOp) (x : RegIdx) (r f : Byte) : (s.setResultAndFlag op x r f).i = s.i := by
  rw [setResultAndFlag_frame]
@[simp] theorem setResultAndFlag_pc (op : FlagOp) (x : RegIdx) (r f : Byte) : (s.setResultAndFlag op x r f).pc = s.pc := by
  rw [setResultAndFlag_frame]
@[simp] theorem setResultAndFlag_sp (op : FlagOp) (x : RegIdx) (r f : Byte) : (s.setResultAndFlag op x r f).sp = s.sp := by
  rw [setResultAndFlag_frame]
@[simp] theorem setResultAndFlag_stack (op : FlagOp) (x : RegIdx) (r f : Byte) : (s.setResultAndFlag op x r f).stack = s.stack := by
  rw [setResultAndFlag_frame]
@[simp] theorem setResultAndFlag_dt (op : FlagOp) (x : RegIdx) (r f : Byte) : (s.setResultAndFlag op x r f).dt = s.dt := by
  rw [setResultAndFlag_frame]
@[simp] theorem setResultAndFlag_st (op : FlagOp) (x : RegIdx) (r f : Byte) : (s.setResultAndFlag op x r f).st = s.st := by
  rw [setResultAndFlag_frame]
@[simp] theorem setResultAndFlag_hp (op : FlagOp) (x : RegIdx) (r f : Byte) : (s.setResultAndFlag op x r f).hp = s.hp := by
  rw [setResultAndFlag_frame]
@[simp] theorem setResultAndFlag_halt (op : FlagOp) (x : RegIdx) (r f : Byte) : (s.setResultAndFlag op x r f).halt = s.halt := by
  rw [setResultAndFlag_frame]
@[simp] theorem setResultAndFlag_mode (op : FlagOp) (x : RegIdx) (r f : Byte) : (s.setResultAndFlag op x r f).mode = s.mode := by
  rw [setResultAndFlag_frame]
@[simp] theorem setResultAndFlag_fault (op : FlagOp) (x : RegIdx) (r f : Byte) : (s.setResultAndFlag op x r f).fault = s.fault := by
  rw [setResultAndFlag_frame]
@[simp] theorem setResultAndFlag_mem (op : FlagOp) (x : RegIdx) (r f : Byte) : (s.setResultAndFlag op x r f).mem = s.mem := by
  rw [setResultAndFlag_frame]
@[simp] theorem setResultAndFlag_fb (op : FlagOp) (x : RegIdx) (r f : Byte) : (s.setResultAndFlag op x r f).fb = s.fb := by
  rw [setResultAndFlag_frame]
@[simp] theorem setResultAndFlag_wait (op : FlagOp) (x : RegIdx) (r f : Byte) : (s.setResultAndFlag op x r f).wait = s.wait := by
  rw [setResultAndFlag_frame]
@[simp] theorem setResultAndFlag_inputs (op : FlagOp) (x : RegIdx) (r f : Byte) : (s.setResultAndFlag op x r f).inputs = s.inputs := by
  rw [setResultAndFlag_frame]

/-! ### awaitKey -/

@[simp] theorem awaitKey_i (x : RegIdx) : (s.awaitKey x).i = s.i := by
  rw [awaitKey_frame]
@[simp] theorem awaitKey_pc (x : RegIdx) : (s.awaitKey x).pc = s.pc := by
  rw [awaitKey_frame]
@[simp] theorem awaitKey_sp (x : RegIdx) : (s.awaitKey x).sp = s.sp := by
  rw [awaitKey_frame]
@[simp] theorem awaitKey_stack (x : RegIdx) : (s.awaitKey x).stack = s.stack := by
  rw [awaitKey_frame]
@[simp] theorem awaitKey_dt (x : RegIdx) : (s.awaitKey x).dt = s.dt := by
  rw [awaitKey_frame]
@[simp] theorem awaitKey_st (x : RegIdx) : (s.awaitKey x).st = s.st := by
  rw [awaitKey_frame]
@[simp] theorem awaitKey_hp (x : RegIdx) : (s.awaitKey x).hp = s.hp := by
  rw [awaitKey_frame]
@[simp] theorem awaitKey_halt (x : RegIdx) : (s.awaitKey x).halt = s.halt := by
  rw [awaitKey_frame]
@[simp] theorem awaitKey_mode (x : RegIdx) : (s.awaitKey x).mode = s.mode := by
  rw [awaitKey_frame]
@[simp] theorem awaitKey_fault (x : RegIdx) : (s.awaitKey x).fault = s.fault := by
  rw [awaitKey_frame]
@[simp] theorem awaitKey_mem (x : RegIdx) : (s.awaitKey x).mem = s.mem := by
  rw [awaitKey_frame]
@[simp] theorem awaitKey_fb (x : RegIdx) : (s.awaitKey x).fb = s.fb := by
  rw [awaitKey_frame]

/-! ### timerPhase -/

@[simp] theorem timerPhase_v : (s.timerPhase).v = s.v := by
  rw [timerPhase_frame]
@[simp] theorem timerPhase_i : (s.timerPhase).i = s.i := by
  rw [timerPhase_frame]
@[simp] theorem timerPhase_pc : (s.timerPhase).pc = s.pc := by
  rw [timerPhase_frame]
@[simp] theorem timerPhase_sp : (s.timerPhase).sp = s.sp := by
  rw [timerPhase_frame]
@[simp] theorem timerPhase_stack : (s.timerPhase).stack = s.stack := by
  rw [timerPhase_frame]
@[simp] theorem timerPhase_hp : (s.timerPhase).hp = s.hp := by
  rw [timerPhase_frame]
@[simp] theorem timerPhase_halt : (s.timerPhase).halt = s.halt := by
  rw [timerPhase_frame]
@[simp] theorem timerPhase_mode : (s.timerPhase).mode = s.mode := by
  rw [timerPhase_frame]
@[simp] theorem timerPhase_fault : (s.timerPhase).fault = s.fault := by
  rw [timerPhase_frame]
@[simp] theorem timerPhase_mem : (s.timerPhase).mem = s.mem := by
  rw [timerPhase_frame]
@[simp] theorem timerPhase_fb : (s.timerPhase).fb = s.fb := by
  rw [timerPhase_frame]
@[simp] theorem timerPhase_wait : (s.timerPhase).wait = s.wait := by
  rw [timerPhase_frame]
@[simp] theorem timerPhase_inputs : (s.timerPhase).inputs = s.inputs := by
  rw [timerPhase_frame]
@[simp] theorem timerPhase_draws : (s.timerPhase).draws = s.draws := by
  rw [timerPhase_frame]

/-! ### memWriteList -/

@[simp] theorem memWriteList_v (a : Nat) (vs : List Byte) : (s.memWriteList a vs).v = s.v := by
  rw [memWriteList_frame]
@[simp] theorem memWriteList_i (a : Nat) (vs : List Byte) : (s.memWriteList a vs).i = s.i := by
  rw [memWriteList_frame]
@[simp] theorem memWriteList_pc (a : Nat) (vs : List Byte) : (s.memWriteList a vs).pc = s.pc := by
  rw [memWriteList_frame]
@[simp] theorem memWriteList_sp (a : Nat) (vs : List Byte) : (s.memWriteList a vs).sp = s.sp := by
  rw [memWriteList_frame]
@[simp] theorem memWriteList_stack (a : Nat) (vs : List Byte) : (s.memWriteList a vs).stack = s.stack := by
  rw [memWriteList_frame]
@[simp] theorem memWriteList_dt (a : Nat) (vs : List Byte) : (s.memWriteList a vs).dt = s.dt := by
  rw [memWriteList_frame]
@[simp] theorem memWriteList_st (a : Nat) (vs : List Byte) : (s.memWriteList a vs).st = s.st := by
  rw [memWriteList_frame]
@[simp] theorem memWriteList_hp (a : Nat) (vs : List Byte) : (s.memWriteList a vs).hp = s.hp := by
  rw [memWriteList_frame]
@[simp] theorem memWriteList_halt (a : Nat) (vs : List Byte) : (s.memWriteList a vs).halt = s.halt := by
  rw [memWriteList_frame]
@[simp] theorem memWriteList_mode (a : Nat) (vs : List Byte) : (s.memWriteList a vs).mode = s.mode := by
  rw [memWriteList_frame]
@[simp] theorem memWriteList_fault (a : Nat) (vs : List Byte) : (s.memWriteList a vs).fault = s.fault := by
  rw [memWriteList_frame]
@[simp] theorem memWriteList_fb (a : Nat) (vs : List Byte) : (s.memWriteList a vs).fb = s.fb := by
  rw [memWriteList_frame]
@[simp] theorem memWriteList_wait (a : Nat) (vs : List Byte) : (s.memWriteList a vs).wait = s.wait := by
  rw [memWriteList_frame]
@[simp] theorem memWriteList_inputs (a : Nat) (vs : List Byte) : (s.memWriteList a vs).inputs = s.inputs := by
  rw [memWriteList_frame]
@[simp] theorem memWriteList_draws (a : Nat) (vs : List Byte) : (s.memWriteList a vs).draws = s.draws := by
  rw [memWriteList_frame]

/-! ### storeRegs -/

@[simp] theorem storeRegs_v (ks : List RegIdx) : (s.storeRegs ks).v = s.v := by
  rw [storeRegs_frame]
@[simp] theorem storeRegs_i (ks : List RegIdx) : (s.storeRegs ks).i = s.i := by
  rw [storeRegs_frame]
@[simp] theorem storeRegs_pc (ks : List RegIdx) : (s.storeRegs ks).pc = s.pc := by
  rw [storeRegs_frame]
@[simp] theorem storeRegs_sp (ks : List RegIdx) : (s.storeRegs ks).sp = s.sp := by
  rw [storeRegs_frame]
@[simp] theorem storeRegs_stack (ks : List RegIdx) : (s.storeRegs ks).stack = s.stack := by
  rw [storeRegs_frame]
@[simp] theorem storeRegs_dt (ks : List RegIdx) : (s.storeRegs ks).dt = s.dt := by
  rw [storeRegs_frame]
@[simp] theorem storeRegs_st (ks : List RegIdx) : (s.storeRegs ks).st = s.st := by
  rw [storeRegs_frame]
@[simp] theorem storeRegs_hp (ks : List RegIdx) : (s.storeRegs ks).hp = s.hp := by
  rw [storeRegs_frame]
@[simp] theorem storeRegs_halt (ks : List RegIdx) : (s.storeRegs ks).halt = s.halt := by
  rw [storeRegs_frame]
@[simp] theorem storeRegs_mode (ks : List RegIdx) : (s.storeRegs ks).mode = s.mode := by
  rw [storeRegs_frame]
@[simp] theorem storeRegs_fault (ks : List RegIdx) : (s.storeRegs ks).fault = s.fault := by
  rw [storeRegs_frame]
@[simp] theorem storeRegs_fb (ks : List RegIdx) : (s.storeRegs ks).fb = s.fb := by
  rw [storeRegs_frame]
@[simp] theorem storeRegs_wait (ks : List RegIdx) : (s.storeRegs ks).wait = s.wait := by
  rw [storeRegs_frame]
@[simp] theorem storeRegs_inputs (ks : List RegIdx) : (s.storeRegs ks).inputs = s.inputs := by
  rw [storeRegs_frame]
@[simp] theorem storeRegs_draws (ks : List RegIdx) : (s.storeRegs ks).draws = s.draws := by
  rw [storeRegs_frame]

/-! ### loadRegs -/

@[simp] theorem loadRegs_i (ks : List RegIdx) : (s.loadRegs ks).i = s.i := by
  rw [loadRegs_frame]
@[simp] theorem loadRegs_pc (ks : List RegIdx) : (s.loadRegs ks).pc = s.pc := by
  rw [loadRegs_frame]
@[simp] theorem loadRegs_sp (ks : List RegIdx) : (s.loadRegs ks).sp = s.sp := by
  rw [loadRegs_frame]
@[simp] theorem loadRegs_stack (ks : List RegIdx) : (s.loadRegs ks).stack = s.stack := by
  rw [loadRegs_frame]
@[simp] theorem loadRegs_dt (ks : List RegIdx) : (s.loadRegs ks).dt = s.dt := by
  rw [loadRegs_frame]
@[simp] theorem loadRegs_st (ks : List RegIdx) : (s.loadRegs ks).st = s.st := by
  rw [loadRegs_frame]
@[simp] theorem loadRegs_hp (ks : List RegIdx) : (s.loadRegs ks).hp = s.hp := by
  rw [loadRegs_frame]
@[simp] theorem loadRegs_halt (ks : List RegIdx) : (s.loadRegs ks).halt = s.halt := by
  rw [loadRegs_frame]
@[simp] theorem loadRegs_mode (ks : List RegIdx) : (s.loadRegs ks).mode = s.mode := by
  rw [loadRegs_frame]
@[simp] theorem loadRegs_fault (ks : List RegIdx) : (s.loadRegs ks).fault = s.fault := by
  rw [loadRegs_frame]
@[simp] theorem loadRegs_mem (ks : List RegIdx) : (s.loadRegs ks).mem = s.mem := by
  rw [loadRegs_frame]
@[simp] theorem loadRegs_fb (ks : List RegIdx) : (s.loadRegs ks).fb = s.fb := by
  rw [loadRegs_frame]
@[simp] theorem loadRegs_wait (ks : List RegIdx) : (s.loadRegs ks).wait = s.wait := by
  rw [loadRegs_frame]
@[simp] theorem loadRegs_inputs (ks : List RegIdx) : (s.loadRegs ks).inputs = s.inputs := by
  rw [loadRegs_frame]
@[simp] theorem loadRegs_draws (ks : List RegIdx) : (s.loadRegs ks).draws = s.draws := by
  rw [loadRegs_frame]

/-! ### storeHp -/

@[simp] theorem storeHp_v (ks : List RegIdx) : (s.storeHp ks).v = s.v := by
  rw [storeHp_frame]
@[simp] theorem storeHp_i (ks : List RegIdx) : (s.storeHp ks).i = s.i := by
  rw [storeHp_frame]
@[simp] theorem storeHp_pc (ks : List RegIdx) : (s.storeHp ks).pc = s.pc := by
  rw [storeHp_frame]
@[simp] theorem storeHp_sp (ks : List RegIdx) : (s.storeHp ks).sp = s.sp := by
  rw [storeHp_frame]
@[simp] theorem storeHp_stack (ks : List RegIdx) : (s.storeHp ks).stack = s.stack := by
  rw [storeHp_frame]
@[simp] theorem storeHp_dt (ks : List RegIdx) : (s.storeHp ks).dt = s.dt := by
  rw [storeHp_frame]
@[simp] theorem storeHp_st (ks : List RegIdx) : (s.storeHp ks).st = s.st := by
  rw [storeHp_frame]
@[simp] theorem storeHp_halt (ks : List RegIdx) : (s.storeHp ks).halt = s.halt := by
  rw [storeHp_frame]
@[simp] theorem storeHp_mode (ks : List RegIdx) : (s.storeHp ks).mode = s.mode := by
  rw [storeHp_frame]
@[simp] theorem storeHp_fault (ks : List RegIdx) : (s.storeHp ks).fault = s.fault := by
  rw [storeHp_frame]
@[simp] theorem storeHp_mem (ks : List RegIdx) : (s.storeHp ks).mem = s.mem := by
  rw [storeHp_frame]
@[simp] theorem storeHp_fb (ks : List RegIdx) : (s.storeHp ks).fb = s.fb := by
  rw [storeHp_frame]
@[simp] theorem storeHp_wait (ks : List RegIdx) : (s.storeHp ks).wait = s.wait := by
  rw [storeHp_frame]
@[simp] theorem storeHp_inputs (ks : List RegIdx) : (s.storeHp ks).inputs = s.inputs := by
  rw [storeHp_frame]
@[simp] theorem storeHp_draws (ks : List RegIdx) : (s.storeHp ks).draws = s.draws := by
  rw [storeHp_frame]

/-! ### loadHp -/

@[simp] theorem loadHp_i (ks : List RegIdx) : (s.loadHp ks).i = s.i := by
  rw [loadHp_frame]
@[simp] theorem loadHp_pc (ks : List RegIdx) : (s.loadHp ks).pc = s.pc := by
  rw [loadHp_frame]
@[simp] theorem loadHp_sp (ks : List RegIdx) : (s.loadHp ks).sp = s.sp := by
  rw [loadHp_frame]
@[simp] theorem loadHp_stack (ks : List RegIdx) : (s.loadHp ks).stack = s.stack := by
  rw [loadHp_frame]
@[simp] theorem loadHp_dt (ks : List RegIdx) : (s.loadHp ks).dt = s.dt := by
  rw [loadHp_frame]
@[simp] theorem loadHp_st (ks : List RegIdx) : (s.loadHp ks).st = s.st := by
  rw [loadHp_frame]
@[simp] theorem loadHp_hp (ks : List RegIdx) : (s.loadHp ks).hp = s.hp := by
  rw [loadHp_frame]
@[simp] theorem loadHp_halt (ks : List RegIdx) : (s.loadHp ks).halt = s.halt := by
  rw [loadHp_frame]
@[simp] theorem loadHp_mode (ks : List RegIdx) : (s.loadHp ks).mode = s.mode := by
  rw [loadHp_frame]
@[simp] theorem loadHp_fault (ks : List RegIdx) : (s.loadHp ks).fault = s.fault := by
  rw [loadHp_frame]
@[simp] theorem loadHp_mem (ks : List RegIdx) : (s.loadHp ks).mem = s.mem := by
  rw [loadHp_frame]
@[simp] theorem loadHp_fb (ks : List RegIdx) : (s.loadHp ks).fb = s.fb := by
  rw [loadHp_frame]
@[simp] theorem loadHp_wait (ks : List RegIdx) : (s.loadHp ks).wait = s.wait := by
  rw [loadHp_frame]
@[simp] theorem loadHp_inputs (ks : List RegIdx) : (s.loadHp ks).inputs = s.inputs := by
  rw [loadHp_frame]
@[simp] theorem loadHp_draws (ks : List RegIdx) : (s.loadHp ks).draws = s.draws := by
  rw [loadHp_frame]

/-! ### draw -/

@[simp] theorem draw_i (x y : RegIdx) (rows : Nat) {cnt : Nat} (sprite : Nat → BitVec cnt) : (s.draw x y rows sprite).i = s.i := rfl
@[simp] theorem draw_pc (x y : RegIdx) (rows : Nat) {cnt : Nat} (sprite : Nat → BitVec cnt) : (s.draw x y rows sprite).pc = s.pc := rfl
@[simp] theorem draw_sp (x y : RegIdx) (rows : Nat) {cnt : Nat} (sprite : Nat → BitVec cnt) : (s.draw x y rows sprite).sp = s.sp := rfl
@[simp] theorem draw_stack (x y : RegIdx) (rows : Nat) {cnt : Nat} (sprite : Nat → BitVec cnt) : (s.draw x y rows sprite).stack = s.stack := rfl
@[simp] theorem draw_dt (x y : RegIdx) (rows : Nat) {cnt : Nat} (sprite : Nat → BitVec cnt) : (s.draw x y rows sprite).dt = s.dt := rfl
@[simp] theorem draw_st (x y : RegIdx) (rows : Nat) {cnt : Nat} (sprite : Nat → BitVec cnt) : (s.draw x y rows sprite).st = s.st := rfl
@[simp] theorem draw_hp (x y : RegIdx) (rows : Nat) {cnt : Nat} (sprite : Nat → BitVec cnt) : (s.draw x y rows sprite).hp = s.hp := rfl
@[simp] theorem draw_halt (x y : RegIdx) (rows : Nat) {cnt : Nat} (sprite : Nat → BitVec cnt) : (s.draw x y rows sprite).halt = s.halt := rfl
@[simp] theorem draw_mode (x y : RegIdx) (rows : Nat) {cnt : Nat} (sprite : Nat → BitVec cnt) : (s.draw x y rows sprite).mode = s.mode := rfl
@[simp] theorem draw_fault (x y : RegIdx) (rows : Nat) {cnt : Nat} (sprite : Nat → BitVec cnt) : (s.draw x y rows sprite).fault = s.fault := rfl
@[simp] theorem draw_mem (x y : RegIdx) (rows : Nat) {cnt : Nat} (sprite : Nat → BitVec cnt) : (s.draw x y rows sprite).mem = s.mem := rfl
@[simp] theorem draw_wait (x y : RegIdx) (rows : Nat) {cnt : Nat} (sprite : Nat → BitVec cnt) : (s.draw x y rows sprite).wait = s.wait := rfl
@[simp] theorem draw_inputs (x y : RegIdx) (rows : Nat) {cnt : Nat} (sprite : Nat → BitVec cnt) : (s.draw x y rows sprite).inputs = s.inputs := rfl
@[simp] theorem draw_draws (x y : RegIdx) (rows : Nat) {cnt : Nat} (sprite : Nat → BitVec cnt) : (s.draw x y rows sprite).draws = s.draws := rfl

/-! ### The meanings -/

@[simp] theorem exec_cls : exec .cls s = .next s.fbClear := rfl
@[simp] theorem exec_ret : exec .ret s =
    if h : 0 < s.sp.val then .next (s.popPc h) else .next (s.raise .stackUnderflow (encode .ret)) := rfl
@[simp] theorem exec_scd (n : Nibble) : exec (.scd n) s = .next (s.setFb (Fb.scrollDown s.mode n.toNat s.fb)) := rfl
@[simp] theorem exec_scr : exec .scr s = .next (s.setFb (Fb.scrollRight s.mode 4 s.fb)) := rfl
@[simp] theorem exec_scl : exec .scl s = .next (s.setFb (Fb.scrollLeft s.mode 4 s.fb)) := rfl
@[simp] theorem exec_exit : exec .exit s = .next { s with halt := true } := rfl
@[simp] theorem exec_low : exec .low s = .next (s.setMode .chip) := rfl
@[simp] theorem exec_high : exec .high s = .next (s.setMode .schip) := rfl
@[simp] theorem exec_jp (nnn : Addr) : exec (.jp nnn) s = .next (s.setPc (pcOf nnn.toNat)) := rfl
@[simp] theorem exec_call (nnn : Addr) : exec (.call nnn) s =
    if h : s.sp.val < 16 then .next ((s.pushPc h).setPc (pcOf nnn.toNat)) else .next (s.raise .stackOverflow (encode (.call nnn))) := rfl
@[simp] theorem exec_sei (x : RegIdx) (nn : Byte) : exec (.sei x nn) s = .next (s.skipIf (s.getV x == nn)) := rfl
@[simp] theorem exec_snei (x : RegIdx) (nn : Byte) : exec (.snei x nn) s = .next (s.skipIf (s.getV x != nn)) := rfl
@[simp] theorem exec_ser (x : RegIdx) (y : RegIdx) : exec (.ser x y) s =
    .next (s.skipIf (s.getV x == s.getV y)) := rfl
@[simp] theorem exec_sner (x : RegIdx) (y : RegIdx) : exec (.sner x y) s =
    .next (s.skipIf (s.getV x != s.getV y)) := rfl
@[simp] theorem exec_ldi (x : RegIdx) (nn : Byte) : exec (.ldi x nn) s = .next (s.setV x nn) := rfl
@[simp] theorem exec_addi (x : RegIdx) (nn : Byte) : exec (.addi x nn) s = .next (s.setV x (s.getV x + nn)) := rfl
@[simp] theorem exec_mov (x : RegIdx) (y : RegIdx) : exec (.mov x y) s = .next (s.setV x (s.getV y)) := rfl
@[simp] theorem exec_or (x : RegIdx) (y : RegIdx) : exec (.or x y) s = .next (s.setV x (s.getV x ||| s.getV y)) := rfl
@[simp] theorem exec_and (x : RegIdx) (y : RegIdx) : exec (.and x y) s =
    .next (s.setV x (s.getV x &&& s.getV y)) := rfl
@[simp] theorem exec_xor (x : RegIdx) (y : RegIdx) : exec (.xor x y) s =
    .next (s.setV x (s.getV x ^^^ s.getV y)) := rfl
@[simp] theorem exec_add (x : RegIdx) (y : RegIdx) : exec (.add x y) s =
    .next (s.setResultAndFlag .add x (s.getV x + s.getV y) (addFlag (s.getV x) (s.getV y))) := rfl
@[simp] theorem exec_sub (x : RegIdx) (y : RegIdx) : exec (.sub x y) s =
    .next (s.setResultAndFlag .sub x (s.getV x - s.getV y) (subFlag (s.getV x) (s.getV y))) := rfl
@[simp] theorem exec_shr (x : RegIdx) (y : RegIdx) : exec (.shr x y) s =
    .next (s.setResultAndFlag .shr x (s.getV x >>> 1) (shrFlag (s.getV x))) := rfl
@[simp] theorem exec_subn (x : RegIdx) (y : RegIdx) : exec (.subn x y) s =
    .next (s.setResultAndFlag .subn x (s.getV y - s.getV x) (subFlag (s.getV y) (s.getV x))) := rfl
@[simp] theorem exec_shl (x : RegIdx) (y : RegIdx) : exec (.shl x y) s =
    .next (s.setResultAndFlag .shl x (s.getV x <<< 1) (shlFlag (s.getV x))) := rfl
@[simp] theorem exec_ldix (nnn : Addr) : exec (.ldix nnn) s = .next (s.setI nnn.toNat) := rfl
@[simp] theorem exec_jpv0 (nnn : Addr) : exec (.jpv0 nnn) s =
    .next (s.setPc (pcOf ((s.getV 0).toNat + nnn.toNat))) := rfl
@[simp] theorem exec_rnd (x : RegIdx) (nn : Byte) : exec (.rnd x nn) s =
    .next (s.drawnRnd.setV x (nn &&& s.rndByte)) := rfl
@[simp] theorem exec_drw (x : RegIdx) (y : RegIdx) (n : Nibble) : exec (.drw x y n) s =
    .next (s.draw x y n.toNat s.spriteRow8) := rfl
@[simp] theorem exec_drw16 (x : RegIdx) (y : RegIdx) : exec (.drw16 x y) s =
    .next (s.draw x y 16 s.spriteRow16) := rfl
@[simp] theorem exec_skp (x : RegIdx) : exec (.skp x) s = .next (s.drawnKeyDown.skipIf (s.keyDown (s.getV x))) := rfl
@[simp] theorem exec_sknp (x : RegIdx) : exec (.sknp x) s =
    .next (s.drawnKeyDown.skipIf (!s.keyDown (s.getV x))) := rfl
@[simp] theorem exec_getdt (x : RegIdx) : exec (.getdt x) s = .next (s.setV x s.dt) := rfl
@[simp] theorem exec_wkey (x : RegIdx) : exec (.wkey x) s = .next (s.awaitKey x) := rfl
@[simp] theorem exec_setdt (x : RegIdx) : exec (.setdt x) s = .next (s.setDt (s.getV x)) := rfl
@[simp] theorem exec_setst (x : RegIdx) : exec (.setst x) s = .next (s.setSt (s.getV x)) := rfl
@[simp] theorem exec_addix (x : RegIdx) : exec (.addix x) s =
    .next ((s.setI (s.i.toNat + (s.getV x).toNat)).setV flagReg (addixFlag s.i (s.getV x))) := rfl
@[simp] theorem exec_font (x : RegIdx) : exec (.font x) s = .next (s.setI (5 * (s.getV x).toNat)) := rfl
@[simp] theorem exec_font10 (x : RegIdx) : exec (.font10 x) s = .next (s.setI (0x50 + 10 * (s.getV x).toNat)) := rfl
@[simp] theorem exec_bcd (x : RegIdx) : exec (.bcd x) s =
    .next (((s.memWrite (s.ea 0) (BitVec.ofNat 8 ((s.getV x).toNat / 100))).memWrite (s.ea 1) (BitVec.ofNat 8 ((s.getV x).toNat / 10 % 10))).memWrite (s.ea 2) (BitVec.ofNat 8 ((s.getV x).toNat % 10))) := rfl
@[simp] theorem exec_stm (x : RegIdx) : exec (.stm x) s = .next (s.storeRegs (regsUpTo x)) := rfl
@[simp] theorem exec_ldm (x : RegIdx) : exec (.ldm x) s = .next (s.loadRegs (regsUpTo x)) := rfl
@[simp] theorem exec_sthp (x : RegIdx) : exec (.sthp x) s =
    if x.val > 7 then .next (s.raise .hpIndexRange (encode (.sthp x))) else .next (s.storeHp (regsUpTo x)) := rfl
@[simp] theorem exec_ldhp (x : RegIdx) : exec (.ldhp x) s =
    if x.val > 7 then .next (s.raise .hpIndexRange (encode (.ldhp x))) else .next (s.loadHp (regsUpTo x)) := rfl

end Sys2Proof.Machine
end

