-- ==== Sys2Proof/Laws/PerInstr.lean ====
section
/-! SUPPORT. One fact for every instruction: its word carries the fixed bits of its row of the opcode map
(30_encoding.md R75, columns mask and match). -/
namespace Sys2Proof.Laws.Table

/-- The column "mask" of the instruction's row (30_encoding.md R75). -/
def rowMask : Instr → Word
  | .cls => 0xFFFF#16
  | .ret => 0xFFFF#16
  | .scd _ => 0xFFF0#16
  | .scr => 0xFFFF#16
  | .scl => 0xFFFF#16
  | .exit => 0xFFFF#16
  | .low => 0xFFFF#16
  | .high => 0xFFFF#16
  | .jp _ => 0xF000#16
  | .call _ => 0xF000#16
  | .sei _ _ => 0xF000#16
  | .snei _ _ => 0xF000#16
  | .ser _ _ => 0xF00F#16
  | .sner _ _ => 0xF00F#16
  | .ldi _ _ => 0xF000#16
  | .addi _ _ => 0xF000#16
  | .mov _ _ => 0xF00F#16
  | .or _ _ => 0xF00F#16
  | .and _ _ => 0xF00F#16
  | .xor _ _ => 0xF00F#16
  | .add _ _ => 0xF00F#16
  | .sub _ _ => 0xF00F#16
  | .shr _ _ => 0xF00F#16
  | .subn _ _ => 0xF00F#16
  | .shl _ _ => 0xF00F#16
  | .ldix _ => 0xF000#16
  | .jpv0 _ => 0xF000#16
  | .rnd _ _ => 0xF000#16
  | .drw _ _ _ => 0xF000#16
  | .drw16 _ _ => 0xF00F#16
  | .skp _ => 0xF0FF#16
  | .sknp _ => 0xF0FF#16
  | .getdt _ => 0xF0FF#16
  | .wkey _ => 0xF0FF#16
  | .setdt _ => 0xF0FF#16
  | .setst _ => 0xF0FF#16
  | .addix _ => 0xF0FF#16
  | .font _ => 0xF0FF#16
  | .font10 _ => 0xF0FF#16
  | .bcd _ => 0xF0FF#16
  | .stm _ => 0xF0FF#16
  | .ldm _ => 0xF0FF#16
  | .sthp _ => 0xF0FF#16
  | .ldhp _ => 0xF0FF#16

/-- The column "match" of the instruction's row (30_encoding.md R75). -/
def rowMatch : Instr → Word
  | .cls => 0x00E0#16
  | .ret => 0x00EE#16
  | .scd _ => 0x00C0#16
  | .scr => 0x00FB#16
  | .scl => 0x00FC#16
  | .exit => 0x00FD#16
  | .low => 0x00FE#16
  | .high => 0x00FF#16
  | .jp _ => 0x1000#16
  | .call _ => 0x2000#16
  | .sei _ _ => 0x3000#16
  | .snei _ _ => 0x4000#16
  | .ser _ _ => 0x5000#16
  | .sner _ _ => 0x9000#16
  | .ldi _ _ => 0x6000#16
  | .addi _ _ => 0x7000#16
  | .mov _ _ => 0x8000#16
  | .or _ _ => 0x8001#16
  | .and _ _ => 0x8002#16
  | .xor _ _ => 0x8003#16
  | .add _ _ => 0x8004#16
  | .sub _ _ => 0x8005#16
  | .shr _ _ => 0x8006#16
  | .subn _ _ => 0x8007#16
  | .shl _ _ => 0x800E#16
  | .ldix _ => 0xA000#16
  | .jpv0 _ => 0xB000#16
  | .rnd _ _ => 0xC000#16
  | .drw _ _ _ => 0xD000#16
  | .drw16 _ _ => 0xD000#16
  | .skp _ => 0xE09E#16
  | .sknp _ => 0xE0A1#16
  | .getdt _ => 0xF007#16
  | .wkey _ => 0xF00A#16
  | .setdt _ => 0xF015#16
  | .setst _ => 0xF018#16
  | .addix _ => 0xF01E#16
  | .font _ => 0xF029#16
  | .font10 _ => 0xF030#16
  | .bcd _ => 0xF033#16
  | .stm _ => 0xF055#16
  | .ldm _ => 0xF065#16
  | .sthp _ => 0xF075#16
  | .ldhp _ => 0xF085#16

/-- "a word op selects the row iff op & mask == match", of the instruction's own word. -/
def Statement (i : Instr) : Prop := encode i &&& rowMask i = rowMatch i

theorem wordOf_and (a b c d a' b' c' d' : Nibble) :
    wordOf a b c d &&& wordOf a' b' c' d' = wordOf (a &&& a') (b &&& b') (c &&& c') (d &&& d') := by
  unfold wordOf
  refine (BitVec.and_append (x₁ := a ++ b ++ c) (x₂ := a' ++ b' ++ c') (y₁ := d) (y₂ := d')).trans ?_
  rw [BitVec.and_append, BitVec.and_append]

theorem and_allOnes (a : Nibble) : a &&& 0xF#4 = a := by revert a; decide

theorem and_none (a : Nibble) : a &&& 0x0#4 = 0x0#4 := by revert a; decide

theorem encNNN_and (h : Nibble) (nnn : Addr) : encNNN h nnn &&& 0xF000#16 = wordOf h 0#4 0#4 0#4 := by
  show _ &&& wordOf 0xF#4 0x0#4 0x0#4 0x0#4 = _
  simp only [encNNN, wordOf_and, and_allOnes, and_none]

theorem encXNN_and (h : Nibble) (x : RegIdx) (nn : Byte) : encXNN h x nn &&& 0xF000#16 = wordOf h 0#4 0#4 0#4 := by
  show _ &&& wordOf 0xF#4 0x0#4 0x0#4 0x0#4 = _
  simp only [encXNN, wordOf_and, and_allOnes, and_none]

theorem encX_and (h : Nibble) (x : RegIdx) (kk : Byte) :
    encXNN h x kk &&& 0xF0FF#16 = wordOf h 0#4 (kk.extractLsb' 4 4) (kk.extractLsb' 0 4) := by
  show _ &&& wordOf 0xF#4 0x0#4 0xF#4 0xF#4 = _
  simp only [encXNN, wordOf_and, and_allOnes, and_none]

theorem encXY_and (h : Nibble) (x y : RegIdx) (n : Nibble) :
    encXYN h x y n &&& 0xF00F#16 = wordOf h 0#4 0#4 n := by
  show _ &&& wordOf 0xF#4 0x0#4 0x0#4 0xF#4 = _
  simp only [encXYN, wordOf_and, and_allOnes, and_none]

theorem encXYN_and (h : Nibble) (x y : RegIdx) (n : Nibble) :
    encXYN h x y n &&& 0xF000#16 = wordOf h 0#4 0#4 0#4 := by
  show _ &&& wordOf 0xF#4 0x0#4 0x0#4 0x0#4 = _
  simp only [encXYN, wordOf_and, and_allOnes, and_none]

theorem encN_and (n : Nibble) : wordOf 0x0#4 0x0#4 0xC#4 n &&& 0xFFF0#16 = wordOf 0x0#4 0x0#4 0xC#4 0#4 := by
  show _ &&& wordOf 0xF#4 0xF#4 0xF#4 0x0#4 = _
  simp only [wordOf_and, and_allOnes, and_none]

theorem cls : Statement .cls := rfl
theorem ret : Statement .ret := rfl
theorem scd (n : Nibble) : Statement (.scd n) := encN_and n
theorem scr : Statement .scr := rfl
theorem scl : Statement .scl := rfl
theorem exit : Statement .exit := rfl
theorem low : Statement .low := rfl
theorem high : Statement .high := rfl
theorem jp (nnn : Addr) : Statement (.jp nnn) := encNNN_and _ nnn
theorem call (nnn : Addr) : Statement (.call nnn) := encNNN_and _ nnn
theorem sei (x : RegIdx) (nn : Byte) : Statement (.sei x nn) := encXNN_and _ x nn
theorem snei (x : RegIdx) (nn : Byte) : Statement (.snei x nn) := encXNN_and _ x nn
theorem ser (x : RegIdx) (y : RegIdx) : Statement (.ser x y) := encXY_and _ x y _
theorem sner (x : RegIdx) (y : RegIdx) : Statement (.sner x y) := encXY_and _ x y _
theorem ldi (x : RegIdx) (nn : Byte) : Statement (.ldi x nn) := encXNN_and _ x nn
theorem addi (x : RegIdx) (nn : Byte) : Statement (.addi x nn) := encXNN_and _ x nn
theorem mov (x : RegIdx) (y : RegIdx) : Statement (.mov x y) := encXY_and _ x y _
theorem or (x : RegIdx) (y : RegIdx) : Statement (.or x y) := encXY_and _ x y _
theorem and (x : RegIdx) (y : RegIdx) : Statement (.and x y) := encXY_and _ x y _
theorem xor (x : RegIdx) (y : RegIdx) : Statement (.xor x y) := encXY_and _ x y _
theorem add (x : RegIdx) (y : RegIdx) : Statement (.add x y) := encXY_and _ x y _
theorem sub (x : RegIdx) (y : RegIdx) : Statement (.sub x y) := encXY_and _ x y _
theorem shr (x : RegIdx) (y : RegIdx) : Statement (.shr x y) := encXY_and _ x y _
theorem subn (x : RegIdx) (y : RegIdx) : Statement (.subn x y) := encXY_and _ x y _
theorem shl (x : RegIdx) (y : RegIdx) : Statement (.shl x y) := encXY_and _ x y _
theorem ldix (nnn : Addr) : Statement (.ldix nnn) := encNNN_and _ nnn
theorem jpv0 (nnn : Addr) : Statement (.jpv0 nnn) := encNNN_and _ nnn
theorem rnd (x : RegIdx) (nn : Byte) : Statement (.rnd x nn) := encXNN_and _ x nn
theorem drw (x : RegIdx) (y : RegIdx) (n : Nibble) : Statement (.drw x y n) := encXYN_and _ x y n
theorem drw16 (x : RegIdx) (y : RegIdx) : Statement (.drw16 x y) := encXY_and _ x y _
theorem skp (x : RegIdx) : Statement (.skp x) := encX_and _ x _
theorem sknp (x : RegIdx) : Statement (.sknp x) := encX_and _ x _
theorem getdt (x : RegIdx) : Statement (.getdt x) := encX_and _ x _
theorem wkey (x : RegIdx) : Statement (.wkey x) := encX_and _ x _
theorem setdt (x : RegIdx) : Statement (.setdt x) := encX_and _ x _
theorem setst (x : RegIdx) : Statement (.setst x) := encX_and _ x _
theorem addix (x : RegIdx) : Statement (.addix x) := encX_and _ x _
theorem font (x : RegIdx) : Statement (.font x) := encX_and _ x _
theorem font10 (x : RegIdx) : Statement (.font10 x) := encX_and _ x _
theorem bcd (x : RegIdx) : Statement (.bcd x) := encX_and _ x _
theorem stm (x : RegIdx) : Statement (.stm x) := encX_and _ x _
theorem ldm (x : RegIdx) : Statement (.ldm x) := encX_and _ x _
theorem sthp (x : RegIdx) : Statement (.sthp x) := encX_and _ x _
theorem ldhp (x : RegIdx) : Statement (.ldhp x) := encX_and _ x _

end Sys2Proof.Laws.Table
end

