-- ==== Sys2Proof/Tests/Slice0.lean ====
section
/-! SUPPORT. The model's own tests. Words and expected values are written out from the spec: 30_encoding.md R74, R75 for the
encodings, 95_test_vectors.md for the behaviour (the vector's id stands with each test). The witnesses at the end show, for
each statement with hypotheses, a state and operands that meet them. -/
namespace Sys2Proof.Tests

open Sys2Proof.Machine

/-! ### Helpers -/

/-- Whether the step that runs the word answers a next state with a property. -/
def after (s : State) (op : Nat) (p : State → Bool) : Bool :=
  match step (s.withFetchWord 16 op) with
  | .next t => p t
  | .fault _ => false
  | .refused _ => false

/-- The reset state with PC elsewhere. -/
def atPc (pc : Word) : State := { State.reset with pc := pc }

/-- A state with two registers set. -/
def withV (s : State) (x : RegIdx) (a : Byte) (y : RegIdx) (b : Byte) : State := (s.setV x a).setV y b

/-- Whether the pixels that are set are exactly those listed. -/
def onlySet (fb : Fb) (ps : List (Nat × Nat)) : Bool :=
  fb == ps.foldl (fun g p => g.setIfInBounds p.2 (rowSet (Fb.row g p.2) p.1 true)) Fb.blank

/-- A grid with the listed pixels (x, y) set. -/
def gridOf (ps : List (Nat × Nat)) : Fb :=
  ps.foldl (fun g p => g.setIfInBounds p.2 (rowSet (Fb.row g p.2) p.1 true)) Fb.blank

/-! ### Well-formedness -/

/-- The one check, n != 0 of the DRW row (30_encoding.md R75), refuses a term that fails it. -/
theorem test_wf_refuses_drw_zero : (Instr.drw 1 2 0#4).wf = false := by decide

theorem test_wf_accepts_drw : (Instr.drw 1 2 1#4).wf = true := by decide

/-! ### Decoding, every constructor, words from the patterns of 30_encoding.md R75 -/

theorem test_decode_system :
    decode 0b0000000011100000#16 = some .cls ∧ decode 0b0000000011101110#16 = some .ret ∧
    decode 0b0000000011001010#16 = some (.scd 10) ∧ decode 0b0000000011111011#16 = some .scr ∧
    decode 0b0000000011111100#16 = some .scl ∧ decode 0b0000000011111101#16 = some .exit ∧
    decode 0b0000000011111110#16 = some .low ∧ decode 0b0000000011111111#16 = some .high := by decide

theorem test_decode_flow :
    decode 0b0001001000110100#16 = some (.jp 0x234) ∧ decode 0b0010001000001010#16 = some (.call 0x20A) ∧
    decode 0b0011101001111111#16 = some (.sei 10 0x7F) ∧ decode 0b0100101001111111#16 = some (.snei 10 0x7F) ∧
    decode 0b0101000100100000#16 = some (.ser 1 2) ∧ decode 0b1001000100100000#16 = some (.sner 1 2) ∧
    decode 0b1011001100000000#16 = some (.jpv0 0x300) := by decide

theorem test_decode_alu :
    decode 0b0110001000000101#16 = some (.ldi 2 5) ∧ decode 0b0111000111111111#16 = some (.addi 1 0xFF) ∧
    decode 0b1000000100100000#16 = some (.mov 1 2) ∧ decode 0b1000000100100001#16 = some (.or 1 2) ∧
    decode 0b1000000100100010#16 = some (.and 1 2) ∧ decode 0b1000000100100011#16 = some (.xor 1 2) ∧
    decode 0b1000001001010100#16 = some (.add 2 5) ∧ decode 0b1000000100100101#16 = some (.sub 1 2) ∧
    decode 0b1000000110100110#16 = some (.shr 1 10) ∧ decode 0b1000000100100111#16 = some (.subn 1 2) ∧
    decode 0b1000000110101110#16 = some (.shl 1 10) := by decide

theorem test_decode_index_draw :
    decode 0b1010111111111111#16 = some (.ldix 0xFFF) ∧ decode 0b1100001100001111#16 = some (.rnd 3 0x0F) ∧
    decode 0b1101000000010010#16 = some (.drw 0 1 2) ∧ decode 0b1101000000010000#16 = some (.drw16 0 1) := by decide

theorem test_decode_keys_timers :
    decode 0b1110001010011110#16 = some (.skp 2) ∧ decode 0b1110001010100001#16 = some (.sknp 2) ∧
    decode 0b1111001100000111#16 = some (.getdt 3) ∧ decode 0b1111010100001010#16 = some (.wkey 5) ∧
    decode 0b1111000000010101#16 = some (.setdt 0) ∧ decode 0b1111010000011000#16 = some (.setst 4) := by decide

theorem test_decode_memory :
    decode 0b1111110000011110#16 = some (.addix 12) ∧ decode 0b1111101000101001#16 = some (.font 10) ∧
    decode 0b1111001100110000#16 = some (.font10 3) ∧ decode 0b1111000000110011#16 = some (.bcd 0) ∧
    decode 0b1111000101010101#16 = some (.stm 1) ∧ decode 0b1111001001100101#16 = some (.ldm 2) ∧
    decode 0b1111000101110101#16 = some (.sthp 1) ∧ decode 0b1111000110000101#16 = some (.ldhp 1) := by decide

/-- C9 -/
theorem test_decode_illegal :
    decode 0x5121#16 = none ∧ decode 0x9AB3#16 = none ∧ decode 0xE19F#16 = none ∧ decode 0xF100#16 = none ∧
    decode 0x00E1#16 = none ∧ decode 0x0123#16 = none ∧ decode 0x00FA#16 = none ∧ decode 0x00BF#16 = none ∧
    decode 0x800F#16 = none ∧ decode 0xF256#16 = none ∧ decode 0x0000#16 = none := by decide

theorem test_decode_bytes :
    decodeBytes [0x62#8, 0x05#8, 0x65#8] = .instr (.ldi 2 5) [0x65#8] ∧
    decodeBytes [0x51#8, 0x21#8] = .unknownOpcode 0x5121#16 ∧ decodeBytes [0x62#8] = .truncated ∧
    decodeTableWord 16 0x6205 = some (.ldi 2 5) := by decide

/-! ### The step cycle -/

/-- C1 -/
theorem test_fetch_big_endian : after State.reset 0x1234 (fun t => t.pc == 0x234#16) = true := by decide

/-- C2 -/
theorem test_fetch_wraps : after (atPc 0xFFF#16) 0x60AB (fun t => t.getV 0 == 0xAB#8 && t.pc == 0x001#16) = true := by
  decide

/-- C5 -/
theorem test_timers_tick :
    after { State.reset with dt := 5#8, st := 1#8 } 0x6000 (fun t => t.dt == 4#8 && t.st == 0#8) = true := by decide

/-- C8 -/
theorem test_illegal_word_faults :
    after { State.reset with dt := 9#8 } 0x8128
      (fun t => t.fault == some ⟨.unknownOpcode, 0x8128#16⟩ && t.pc == 0x202#16 && t.dt == 9#8) = true := by decide

/-- C7: the empty program. -/
theorem test_reset_runs_into_zero :
    step State.reset =
      .next { State.reset with pc := 0x202#16, fault := some ⟨.unknownOpcode, 0x0000#16⟩ } := by rfl

/-! ### The 0x00.. family -/

/-- Y1 -/
theorem test_cls : after { State.reset with fb := gridOf [(0, 0), (127, 63)] } 0x00E0 (fun t => onlySet t.fb []) = true := by
  decide +kernel

/-- Y2 -/
theorem test_ret :
    after { atPc 0x20C#16 with sp := 2, stack := State.reset.stack.set 1 0x0206#16 } 0x00EE
      (fun t => t.sp == 1 && t.pc == 0x206#16 && t.stack[1] == 0x0206#16) = true := by decide

/-- Y4 -/
theorem test_ret_underflow :
    after { State.reset with sp := 0 } 0x00EE
      (fun t => t.fault == some ⟨.stackUnderflow, 0x00EE#16⟩ && t.sp == 0 && t.pc == 0x202#16) = true := by decide

/-- Y6 -/
theorem test_scd_discards : after { State.reset with fb := gridOf [(5, 31)] } 0x00C1 (fun t => onlySet t.fb []) = true := by
  decide +kernel

/-- Y9 and Y10 -/
theorem test_scr :
    after { State.reset with fb := gridOf [(60, 2), (0, 2)] } 0x00FB (fun t => onlySet t.fb [(4, 2)]) = true := by
  decide +kernel

/-- Y13 -/
theorem test_scl_leaves_off_mode :
    after { State.reset with fb := gridOf [(64, 5)] } 0x00FC (fun t => onlySet t.fb [(64, 5)]) = true := by
  decide +kernel

/-- Y14 -/
theorem test_exit :
    after { atPc 0x20C#16 with dt := 3#8 } 0x00FD (fun t => t.halt && t.pc == 0x20E#16 && t.dt == 2#8) = true := by decide

/-- Y15 and Y16 -/
theorem test_low_high :
    after { State.reset with mode := .schip } 0x00FE (fun t => t.mode == .chip) = true ∧
    after State.reset 0x00FF (fun t => t.mode == .schip && t.mode.width == 128 && t.mode.height == 64) = true := by decide

/-! ### Jump, call, skip -/

/-- J1 -/
theorem test_jp : after (atPc 0x20A#16) 0x1204 (fun t => t.pc == 0x204#16) = true := by decide

/-- J9 -/
theorem test_call_wraps :
    after (atPc 0xFFE#16) 0x2300 (fun t => t.stack[1] == 0x0000#16 && t.sp == 2 && t.pc == 0x300#16) = true := by decide

/-- J10 -/
theorem test_call_overflow :
    after { State.reset with sp := 16 } 0x2300
      (fun t => t.fault == some ⟨.stackOverflow, 0x2300#16⟩ && t.sp == 16 && t.pc == 0x202#16) = true := by decide

/-- J3 and J8 -/
theorem test_sei :
    after (atPc 0x208#16) 0x3100 (fun t => t.pc == 0x20C#16) = true ∧
    after (atPc 0xFFE#16) 0x3000 (fun t => t.pc == 0x002#16) = true := by decide

/-- J5 and J6 -/
theorem test_snei :
    after ((atPc 0x300#16).setV 10 0x7F#8) 0x4A7F (fun t => t.pc == 0x302#16) = true ∧
    after ((atPc 0x300#16).setV 10 0x80#8) 0x4A7F (fun t => t.pc == 0x304#16) = true := by decide

/-- J7 -/
theorem test_ser_sner :
    after (withV State.reset 1 9#8 2 9#8) 0x5120 (fun t => t.pc == 0x204#16) = true ∧
    after (withV State.reset 1 9#8 2 9#8) 0x9120 (fun t => t.pc == 0x202#16) = true := by decide

/-- I3 -/
theorem test_jpv0_wraps : after (State.reset.setV 0 0xFF#8) 0xBFFF (fun t => t.pc == 0x0FE#16) = true := by decide

/-! ### Arithmetic -/

/-- A17 -/
theorem test_addi_no_carry :
    after (State.reset.setV 1 0xFF#8) 0x7102 (fun t => t.getV 1 == 0x01#8 && t.getV 15 == 0#8) = true := by decide

/-- A15 -/
theorem test_logic_keeps_flag :
    (let s := (withV State.reset 1 0xF0#8 2 0x3C#8).setV 15 1#8
     after s 0x8121 (fun t => t.getV 1 == 0xFC#8 && t.getV 15 == 1#8) &&
     after s 0x8122 (fun t => t.getV 1 == 0x30#8 && t.getV 15 == 1#8) &&
     after s 0x8123 (fun t => t.getV 1 == 0xCC#8 && t.getV 15 == 1#8)) = true := by decide

/-- A16 -/
theorem test_mov : after (State.reset.setV 2 0x7E#8) 0x8120 (fun t => t.getV 1 == 0x7E#8) = true := by decide

/-- A1 and A4 -/
theorem test_add :
    after (withV State.reset 1 0xFF#8 2 0x01#8) 0x8124 (fun t => t.getV 1 == 0#8 && t.getV 15 == 1#8) = true ∧
    after (withV State.reset 1 0x10#8 15 0x05#8) 0x81F4 (fun t => t.getV 1 == 0x15#8 && t.getV 15 == 0#8) = true := by
  decide

/-- A6 and A7 -/
theorem test_sub :
    after (withV State.reset 1 3#8 2 5#8) 0x8125 (fun t => t.getV 1 == 0xFE#8 && t.getV 15 == 0#8) = true ∧
    after (withV State.reset 1 7#8 2 7#8) 0x8125 (fun t => t.getV 1 == 0#8 && t.getV 15 == 0#8) = true := by decide

/-- A8 and A9 -/
theorem test_subn :
    after (withV State.reset 1 3#8 2 5#8) 0x8127 (fun t => t.getV 1 == 2#8 && t.getV 15 == 1#8) = true ∧
    after (withV State.reset 1 5#8 2 3#8) 0x8127 (fun t => t.getV 1 == 0xFE#8 && t.getV 15 == 0#8) = true := by decide

/-- A11: the y field is ignored. -/
theorem test_shr : after (State.reset.setV 1 0x03#8) 0x81A6 (fun t => t.getV 1 == 1#8 && t.getV 15 == 1#8) = true := by
  decide

/-- A13 -/
theorem test_shl : after (State.reset.setV 1 0x81#8) 0x810E (fun t => t.getV 1 == 2#8 && t.getV 15 == 1#8) = true := by
  decide

/-! ### Index, random -/

/-- I4: the random byte is 0xA7. -/
theorem test_rnd :
    after { State.reset with inputs := { State.reset.inputs with rnd := [0xA7#8] } } 0xC30F
      (fun t => t.getV 3 == 0x07#8 && t.inputs.rnd == []) = true := by decide

/-- X1 and X5 -/
theorem test_addix :
    after ({ State.reset with i := 0xFFF#12 }.setV 12 0x56#8) 0xFC1E (fun t => t.i == 0x055#12 && t.getV 15 == 1#8) = true ∧
    after ({ State.reset with i := 0x100#12 }.setV 15 5#8) 0xFF1E (fun t => t.i == 0x105#12 && t.getV 15 == 0#8) = true := by
  decide

/-- I1, X7 and X9 -/
theorem test_index_loads :
    after State.reset 0xAFFF (fun t => t.i == 0xFFF#12) = true ∧
    after (State.reset.setV 10 0xFF#8) 0xFA29 (fun t => t.i == 0x4FB#12) = true ∧
    after (State.reset.setV 3 0xFF#8) 0xF330 (fun t => t.i == 0xA46#12) = true := by decide

/-! ### Draw -/

/-- W4: clipped at the right edge, wrapped at the bottom. -/
theorem test_drw_clips_and_wraps :
    after ((withV { State.reset with i := 0x300#12 } 0 62#8 1 31#8).memWriteList 0x300 [0xF0#8, 0x80#8]) 0xD012
      (fun t => onlySet t.fb [(62, 31), (63, 31), (62, 0)] && t.getV 15 == 0#8 && t.i == 0x300#12) = true := by
  decide +kernel

/-- W7 -/
theorem test_drw_collides :
    after ({ State.reset with i := 0x300#12, fb := gridOf [(0, 0)] }.memWriteList 0x300 [0xC0#8]) 0xD011
      (fun t => onlySet t.fb [(1, 0)] && t.getV 15 == 1#8) = true := by decide +kernel

/-- W11 -/
theorem test_drw16 :
    after ((withV { State.reset with i := 0x300#12, mode := .schip } 0 120#8 1 62#8).memWriteList 0x300 [0xFF#8, 0xFF#8])
      0xD010 (fun t => onlySet t.fb [(120, 62), (121, 62), (122, 62), (123, 62), (124, 62), (125, 62), (126, 62), (127, 62)] &&
        t.getV 15 == 0#8) = true := by decide +kernel

/-- W12: DRW16 in CHIP mode, here with the collision bit of W7's rule. -/
theorem test_drw16_chip :
    after ((withV { State.reset with i := 0x300#12, fb := gridOf [(56, 0)] } 0 56#8 1 0#8).memWriteList 0x300
      [0xFF#8, 0xFF#8]) 0xD010
      (fun t => onlySet t.fb [(57, 0), (58, 0), (59, 0), (60, 0), (61, 0), (62, 0), (63, 0)] && t.getV 15 == 1#8) = true := by
  decide +kernel

/-! ### Keys and timers -/

/-- A state at 0x210 with V2 = 0x0A and key 10 down or up. -/
def keyState (down : Bool) : State :=
  { (atPc 0x210#16).setV 2 0x0A#8 with
    inputs := { State.reset.inputs with keyDown := [if down then 0x0400#16 else 0xFBFF#16] } }

/-- T1 and T2 -/
theorem test_skp :
    after (keyState true) 0xE29E (fun t => t.pc == 0x214#16) = true ∧
    after (keyState false) 0xE29E (fun t => t.pc == 0x212#16) = true := by decide

/-- T3 -/
theorem test_sknp :
    after (keyState false) 0xE2A1 (fun t => t.pc == 0x214#16) = true ∧
    after (keyState true) 0xE2A1 (fun t => t.pc == 0x212#16) = true := by decide

/-- T5 -/
theorem test_getdt :
    after { State.reset with dt := 7#8 } 0xF307 (fun t => t.getV 3 == 7#8 && t.dt == 6#8) = true := by decide

/-- T7 and T9 -/
theorem test_setdt :
    after (State.reset.setV 0 3#8) 0xF015 (fun t => t.dt == 2#8) = true ∧
    after { State.reset with dt := 9#8 } 0xF015 (fun t => t.dt == 0#8) = true := by decide

/-- T10 -/
theorem test_setst : after (State.reset.setV 4 10#8) 0xF418 (fun t => t.st == 9#8) = true := by decide

/-- T11: key 0xB at once. -/
theorem test_wkey :
    after { atPc 0x210#16 with dt := 5#8, inputs := { State.reset.inputs with keyWait := [some 0xB#4] } } 0xF50A
      (fun t => t.getV 5 == 0x0B#8 && t.pc == 0x212#16 && t.dt == 4#8 && t.wait == none) = true := by decide

/-- T11, T12: no key yet, the timers stand still. -/
theorem test_wkey_waits :
    after { atPc 0x210#16 with dt := 5#8, inputs := { State.reset.inputs with keyWait := [none] } } 0xF50A
      (fun t => t.getV 5 == 0#8 && t.dt == 5#8 && t.wait == some 5) = true := by decide

/-! ### Block instructions -/

/-- X12 -/
theorem test_bcd_wraps :
    after ({ State.reset with i := 0xFFE#12 }.setV 0 255#8) 0xF033
      (fun t => t.memRead 0xFFE == 2#8 && t.memRead 0xFFF == 5#8 && t.memRead 0 == 5#8) = true := by decide

/-- X13 -/
theorem test_stm :
    after (withV { State.reset with i := 0x400#12 } 0 0x11#8 1 0x22#8 |>.setV 2 0x33#8) 0xF155
      (fun t => t.memRead 0x400 == 0x11#8 && t.memRead 0x401 == 0x22#8 && t.memRead 0x402 == 0#8 && t.i == 0x400#12) = true := by
  decide

/-- X14 -/
theorem test_ldm :
    after ({ State.reset with i := 0x300#12 }.memWriteList 0x300 [2#8, 5#8, 4#8, 9#8]) 0xF265
      (fun t => t.getV 0 == 2#8 && t.getV 1 == 5#8 && t.getV 2 == 4#8 && t.getV 3 == 0#8 && t.i == 0x300#12) = true := by decide

/-- X16 and X18 -/
theorem test_sthp :
    after (withV State.reset 0 0xAA#8 1 0xBB#8) 0xF175
      (fun t => t.getHp 0 == 0xAA#8 && t.getHp 1 == 0xBB#8 && t.getHp 2 == 0#8) = true ∧
    after State.reset 0xF875 (fun t => t.fault == some ⟨.hpIndexRange, 0xF875#16⟩ && t.faultCode == 4#3) = true := by decide

/-- X17 and X18 -/
theorem test_ldhp :
    after ((State.reset.setHp 0 0xAA#8).setHp 1 0xBB#8) 0xF185
      (fun t => t.getV 0 == 0xAA#8 && t.getV 1 == 0xBB#8) = true ∧
    after State.reset 0xF885 (fun t => t.fault == some ⟨.hpIndexRange, 0xF885#16⟩) = true := by decide

/-- 20_memory.md R52: the standard font's glyph A at 5 * 10, the zeros after the fonts. -/
theorem test_reset_memory :
    ((List.range 5).map fun k => State.reset.memRead (50 + k)) = [0xF0#8, 0x90#8, 0xF0#8, 0x90#8, 0x90#8] ∧
    State.reset.memRead 0x0F0 = 0#8 ∧ State.reset.memRead 0xFFF = 0#8 := by decide

/-- Writing what an unlisted address reads as removes the entry. -/
theorem test_memory_canonical : ((State.reset.memWrite 0x300 7#8).memWrite 0x300 0#8).mem = [] := by decide

/-! ### Witnesses: states and operands that meet the statements' hypotheses -/

/-- The reset state about to run a word. -/
def about (op : Nat) : State := State.reset.withFetchWord 16 op

theorem witness_DecodeEncode : (Instr.drw 1 2 15#4).wf = true := by decide

theorem witness_EncodeDecode : decode 0xD010#16 = some (.drw16 0 1) := by decide

theorem witness_StepRunsDecoded : (about 0x6205).Running ∧ decode (about 0x6205).fetch = some (.ldi 2 5) := by
  refine ⟨⟨rfl, rfl, rfl⟩, by decide⟩

theorem witness_FetchIsBigEndian : (atPc 0xFFF#16).pc.toNat < 4096 := by decide

theorem witness_TimerPhase :
    (State.reset.fault = none ∧ State.reset.wait = none) ∧ (State.reset.raise .hpIndexRange 0xF875#16).fault ≠ none ∧
    { State.reset with wait := some 5 }.wait ≠ none := by decide

theorem witness_IllegalWordIsFatal : (about 0x5121).Running ∧ decode (about 0x5121).fetch = none := by
  refine ⟨⟨rfl, rfl, rfl⟩, by decide⟩

theorem witness_StoppedCoreDoesNothing :
    { State.reset with halt := true }.halt = true ∧ (State.reset.raise .stackUnderflow 0x00EE#16).fault ≠ none := by decide

/-- One state for each of the four fatal conditions. -/
theorem witness_FatalEntry :
    ((about 0x5121).fault = none ∧ after (about 0x5121) 0x5121 (fun t => t.fault == some ⟨.unknownOpcode, 0x5121#16⟩) = true) ∧
    after { State.reset with sp := 16 } 0x2300 (fun t => t.fault == some ⟨.stackOverflow, 0x2300#16⟩) = true ∧
    after { State.reset with sp := 0 } 0x00EE (fun t => t.fault == some ⟨.stackUnderflow, 0x00EE#16⟩) = true ∧
    after State.reset 0xF885 (fun t => t.fault == some ⟨.hpIndexRange, 0xF885#16⟩) = true := by decide

theorem witness_HaltOnlyByExit :
    (about 0x00FD).halt = false ∧ ∃ t, step (about 0x00FD) = .next t ∧ t.halt = true := ⟨rfl, _, rfl, rfl⟩

theorem witness_StepKeepsInv : State.reset.Inv ∧ ∃ t, step State.reset = .next t := by
  refine ⟨⟨by decide, ?_, by decide, by decide, by decide⟩, _, rfl⟩
  intro k h
  simp [State.reset]

theorem witness_TimersOnlyFall :
    ∃ t, step { about 0x6000 with dt := 5#8, st := 5#8 } = .next t ∧
      ∀ x, ¬ (decode (about 0x6000).fetch = some (.setdt x)) ∧ ¬ (decode (about 0x6000).fetch = some (.setst x)) :=
  ⟨_, rfl, by decide⟩

/-- One step that changes each piece of state. -/
theorem witness_StateWriters :
    after State.reset 0xA123 (fun t => decide (t.i ≠ State.reset.i)) = true ∧
    after State.reset 0x2300 (fun t => decide (t.sp ≠ State.reset.sp ∧ t.stack ≠ State.reset.stack)) = true ∧
    after (State.reset.setV 0 1#8) 0xF075 (fun t => decide (t.hp ≠ State.reset.hp)) = true ∧
    after State.reset 0x00FF (fun t => decide (t.mode ≠ State.reset.mode)) = true ∧
    after { State.reset with i := 0x300#12 } 0xF033 (fun t => decide (t.mem = (about 0xF033).mem)) = true ∧
    after ({ State.reset with i := 0x300#12 }.setV 0 1#8) 0xF055 (fun t => decide (t.mem ≠ (about 0xF055).mem)) = true ∧
    after { State.reset with fb := gridOf [(0, 0)] } 0x00E0 (fun t => decide (t.fb ≠ gridOf [(0, 0)])) = true := by
  decide +kernel

theorem witness_FlagKept : mayWriteVf .cls = false ∧ ∃ t, exec .cls State.reset = .next t := ⟨rfl, _, rfl⟩

theorem witness_OffModePixelsInert :
    (∃ t, step (about 0x00C1) = .next t) ∧ ¬ decode (about 0x00C1).fetch = some .cls ∧
    State.reset.mode.inRect 64 0 = false ∧ State.reset.mode.inRect 0 32 = false := by
  refine ⟨⟨_, rfl⟩, by decide, by decide, by decide⟩

theorem witness_ModeMattersToDisplayOnly :
    usesMode (.ldi 1 2) = false ∧ ∃ t, exec (.ldi 1 2) State.reset = .next t := ⟨rfl, _, rfl⟩

/-- Both branches of the clauses on x, and of a skip. -/
theorem witness_alu_and_skips :
    (1 : RegIdx) ≠ 15 ∧ (15 : RegIdx) = 15 ∧ State.reset.getV 1 = 0#8 ∧ State.reset.getV 1 ≠ 1#8 := by decide

theorem witness_RandomIsMasked :
    { State.reset with inputs := { State.reset.inputs with rnd := [0x05#8] } }.inputs.rnd = 0x05#8 :: [] ∧
    State.reset.inputs.rnd = [] ∧ 0x05#8 &&& ~~~0x0F#8 = 0#8 := by decide

theorem witness_CallPushes :
    { State.reset with sp := 0 }.sp.val < 16 ∧ { State.reset with sp := 15 }.sp.val < 16 ∧
    { State.reset with sp := 16 }.sp.val = 16 := by decide

theorem witness_ReturnPops :
    { State.reset with sp := 1 }.sp.val = 0 + 1 ∧ { State.reset with sp := 16 }.sp.val = 15 + 1 ∧
    { State.reset with sp := 0 }.sp.val = 0 := by decide

theorem witness_CallThenReturn : { State.reset with sp := 15 }.sp.val < 16 := by decide

/-- Pixels on both sides of the edges of the CHIP rectangle, and on both branches of the scrolls. -/
theorem witness_Scrolls :
    State.reset.mode.inRect 63 31 = true ∧ State.reset.mode.inRect 64 31 = false ∧ State.reset.mode.inRect 63 32 = false ∧
    (15#4).toNat ≤ 31 ∧ ¬ (15#4).toNat ≤ 0 := by decide

theorem witness_ExitLowHigh : (about 0x00FD).Running ∧ decode (about 0x00FD).fetch = some .exit := by
  refine ⟨⟨rfl, rfl, rfl⟩, by decide⟩

/-- A sprite over a set pixel, and one over unset pixels only. -/
theorem witness_DrawSprite :
    (1#4) ≠ 0#4 ∧
    (∃ px py, { State.reset with fb := gridOf [(0, 0)] }.fb.pixel px py = true ∧
      SpriteBitAt { State.reset with fb := gridOf [(0, 0)] } 0 1 1 (fun _ => 0xC0#8) px py) ∧
    (∀ px py, SpriteBitAt State.reset 0 1 1 (fun _ => 0xC0#8) px py → State.reset.fb.pixel px py = false) := by
  refine ⟨by decide, ⟨0, 0, by decide, by decide, 0, 0, by decide⟩, ?_⟩
  rintro px py ⟨_, r, c, hr, _, _, rfl, _⟩
  obtain rfl : r = 0 := by omega
  show Fb.pixel Fb.blank px 0 = false
  simp [Fb.pixel, Fb.row, Fb.blank]

/-- In CHIP mode: the lowest row of a 16x16 sprite over a set pixel, and a sprite over unset pixels only. -/
theorem witness_DrawSprite16 :
    (∃ px py, { State.reset with fb := gridOf [(15, 15)] }.fb.pixel px py = true ∧
      SpriteBitAt { State.reset with fb := gridOf [(15, 15)] } 0 1 16 (fun _ => 0x8001#16) px py) ∧
    (∀ px py, SpriteBitAt State.reset 0 1 16 (fun _ => 0x8001#16) px py → State.reset.fb.pixel px py = false) :=
  ⟨⟨15, 15, by decide, by decide, 15, 15, by decide⟩, fun px py _ => by
    show Fb.pixel Fb.blank px py = false
    by_cases h : py < 64 <;> simp [Fb.pixel, Fb.row, Fb.blank, h]⟩

/-- The sample for the highest key index that has a bit. -/
theorem witness_KeySkips :
    let s := { State.reset.setV 2 15#8 with inputs := { State.reset.inputs with keyDown := [0x8000#16] } }
    s.inputs.keyDown = 0x8000#16 :: [] ∧ (s.getV 2).toNat < 16 := by decide

theorem witness_TimerMoves :
    ((about 0xF307).Running ∧ decode (about 0xF307).fetch = some (.getdt 3)) ∧
    ((about 0xF015).Running ∧ decode (about 0xF015).fetch = some (.setdt 0)) ∧
    ((about 0xF418).Running ∧ decode (about 0xF418).fetch = some (.setst 4)) := by
  refine ⟨⟨⟨rfl, rfl, rfl⟩, by decide⟩, ⟨⟨rfl, rfl, rfl⟩, by decide⟩, ⟨rfl, rfl, rfl⟩, by decide⟩

/-- A state whose handshake gives no key twice and then key 0xB. -/
def delayed : State := { about 0xF50A with inputs := { State.reset.inputs with keyWait := [none, none, some 0xB#4] } }

theorem witness_KeyWaitAnyDelay :
    delayed.Running ∧ decode delayed.fetch = some (.wkey 5) ∧
    delayed.inputs.keyWait = List.replicate 2 none ++ some 0xB#4 :: [] ∧ 1 ≤ 1 ∧ 1 ≤ 2 := by
  refine ⟨⟨rfl, rfl, rfl⟩, by decide, by decide, by decide, by decide⟩

theorem witness_KeyWaitCompletes :
    { State.reset with inputs := { State.reset.inputs with keyWait := [some 0xB#4] } }.inputs.keyWait = some 0xB#4 :: [] := by
  decide

theorem witness_BcdStoresDigits :
    3 < 4096 ∧ 3 ≠ State.reset.ea 0 ∧ 3 ≠ State.reset.ea 1 ∧ 3 ≠ State.reset.ea 2 := by decide

/-- The first and the last register of the block, and an address outside it. -/
theorem witness_BlockStore :
    (0 : RegIdx) ≤ 0 ∧ (15 : RegIdx) ≤ 15 ∧ 16 < 4096 ∧ ∀ k : RegIdx, k ≤ 15 → 16 ≠ State.reset.ea k.val := by decide

theorem witness_BlockLoad : (7 : RegIdx) ≤ 7 ∧ (7 : RegIdx) < 8 := by decide

/-- The largest legal x and the smallest that is out of range. -/
theorem witness_HpStore_HpLoad : (7 : RegIdx).val ≤ 7 ∧ 7 < (8 : RegIdx).val ∧ (7 : RegIdx) < 8 := by decide

theorem witness_MemoryReadWrite : 0xFFF < 4096 := by decide

theorem witness_MemoryCanonical :
    Memory.wf (State.reset.memWrite 0x300 7#8).mem ∧
    ∀ a, a < 4096 → Memory.read (State.reset.memWrite 0x300 7#8).mem a = Memory.read (State.reset.memWrite 0x300 7#8).mem a := by
  refine ⟨by decide, fun _ _ => rfl⟩

/-- A store that covers the second byte of the word at 0x201 only, and at 0xFFF the byte that the address space wraps to. -/
theorem witness_StoreThenFetch :
    (0 : RegIdx) ≤ 0 ∧ { State.reset with i := 0x202#12 }.ea 0 = ((0x201#16).toNat + 1) % 4096 ∧
    { State.reset with i := 0x202#12 }.ea 0 ≠ (0x201#16).toNat ∧
    { State.reset with i := 0xFFE#12 }.ea 1 = (0xFFF#16).toNat ∧
    { State.reset with i := 0xFFE#12 }.ea 2 = ((0xFFF#16).toNat + 1) % 4096 ∧
    (∀ k : RegIdx, k ≤ 0 → 0x201 ≠ { State.reset with i := 0x202#12 }.ea k.val) := by decide

theorem witness_ResetValues : 0x0F0 ≤ 0x0F0 ∧ 0xFFF < 4096 := by decide

/-- The longest program that fits, and the shortest that does not. -/
theorem witness_ResetWithProgram :
    (List.replicate 0xE00 0#8).length ≤ 0xE00 ∧ 0xE00 < (List.replicate 0xE01 0#8).length ∧
    0x1FF < 4096 ∧ 0x1FF < 0x200 :=
  ⟨Nat.le_of_eq List.length_replicate, Nat.lt_of_lt_of_eq (by decide) List.length_replicate.symm, by decide, by decide⟩

theorem witness_FaultOutputs :
    State.reset.fault = none ∧ (State.reset.raise .stackOverflow 0x2300#16).fault = some ⟨.stackOverflow, 0x2300#16⟩ ∧
    State.reset.pc.toNat < 4096 ∧ ∃ t, step State.reset = .next t ∧ t.fault ≠ none :=
  ⟨rfl, rfl, by decide, _, rfl, by decide⟩

end Sys2Proof.Tests
end

section
/-! PROOFS. What the body of an instruction and a step can do to the state, and the statements on the state
(10_state.md): the invariant, the halt flag, the timers, the writers of each field, VF, off-mode pixels, reset. -/
namespace Sys2Proof.Machine

/-! ### Pixels outside the mode rectangle -/

/-- A grid operation that keeps every pixel outside the mode rectangle by its definition keeps them in the grid too. -/
theorem pixel_tabulate_offMode {m : Mode} {fb : Fb} {g : Nat → Nat → Bool} {x y : Nat} (h : m.inRect x y = false) :
    Fb.pixel (Fb.tabulate fun a b => if m.inRect a b then g a b else Fb.pixel fb a b) x y = Fb.pixel fb x y := by
  by_cases hin : x < 128 ∧ y < 64
  · rw [pixel_tabulate _ hin.1 hin.2, h]
    rfl
  · rw [pixel_outside _ hin, pixel_outside _ hin]

/-- A sprite flips pixels of the mode rectangle only: its columns are cut at the width, its lines taken mod the height. -/
theorem pixel_draw_offMode (s : State) (x y : RegIdx) {rows cnt : Nat} (sprite : Nat → BitVec cnt) (hrows : rows ≤ 32)
    {px py : Nat} (h : s.mode.inRect px py = false) :
    Fb.pixel (s.draw x y rows sprite).fb px py = Fb.pixel s.fb px py := by
  have hlt : ∀ r ∈ List.range rows, r < s.mode.height := fun r hr =>
    lt_of_lt_of_le (List.mem_range.1 hr) (hrows.trans s.mode.height_ge)
  refine (pixel_drawRows _ _ _ _ px py _ (s.fb, false) List.nodup_range hlt).trans ?_
  by_cases hx : px < s.mode.width
  · have hy : ¬ py < s.mode.height := fun hy => by simp [Mode.inRect, hx, hy] at h
    have hrow : ∀ r, py ≠ ((s.getV y).toNat + r) % s.mode.height := fun r e =>
      hy (e ▸ Nat.mod_lt _ (lt_of_lt_of_le (by decide) s.mode.height_ge))
    simp [hrow, List.any_eq]
  · simp [hx]

/-! ### VF -/

theorem flagReg_notMem_regsUpTo {x : RegIdx} (h : x ≠ 15) : flagReg ∉ regsUpTo x := by
  rw [mem_regsUpTo]
  exact fun hle => h (le_antisymm (Fin.le_last x) hle)

theorem getV_awaitKey_ne (s : State) {x q : RegIdx} (h : q ≠ x) : (s.awaitKey x).getV q = s.getV q := by
  cases hk : s.keyAnswer with
  | some k =>
    rw [awaitKey_some x hk]
    exact getV_setV_ne s.drawnKeyWait _ h
  | none =>
    rw [awaitKey_none x hk]
    rfl

/-! ### What a body can do -/

/-- What the body of an instruction can make of a state: which fields it may change (10_state.md R36), with what the
invariant, the flag rule (R21, R22) and the mode rectangle (R33) ask of the new values. -/
inductive BodyEffect (s : State) : Instr → State → Prop where
  | registers {i : Instr} (v : Vector Byte 16) (inputs : Inputs) (draws : Nat)
      (hvf : mayWriteVf i = false → v[15] = s.v[15]) :
      BodyEffect s i { s with v := v, inputs := inputs, draws := draws }
  | jump {i : Instr} (pc : Word) (inputs : Inputs) (draws : Nat) (hpc : s.pc.toNat < 4096 → pc.toNat < 4096) :
      BodyEffect s i { s with pc := pc, inputs := inputs, draws := draws }
  | fatal {i : Instr} (c : FatalCause) : BodyEffect s i (s.raise c (encode i))
  | call (nnn : Addr) (h : s.sp.val < 16) : BodyEffect s (.call nnn) ((s.pushPc h).setPc (pcOf nnn.toNat))
  | ret (h : 0 < s.sp.val) : BodyEffect s .ret (s.popPc h)
  | index {i : Instr} (v : Vector Byte 16) (a : Addr)
      (hi : (∃ nnn, i = .ldix nnn) ∨ ∃ x, i = .addix x ∨ i = .font x ∨ i = .font10 x)
      (hvf : mayWriteVf i = false → v[15] = s.v[15]) :
      BodyEffect s i { s with v := v, i := a }
  | clear : BodyEffect s .cls s.fbClear
  | scroll {i : Instr} (fb : Fb) (hi : (∃ n, i = .scd n) ∨ i = .scr ∨ i = .scl)
      (hoff : ∀ x y, s.mode.inRect x y = false → fb.pixel x y = s.fb.pixel x y) :
      BodyEffect s i (s.setFb fb)
  | draw {i : Instr} (v : Vector Byte 16) (fb : Fb) (hi : (∃ x y n, i = .drw x y n) ∨ ∃ x y, i = .drw16 x y)
      (hoff : ∀ x y, s.mode.inRect x y = false → fb.pixel x y = s.fb.pixel x y) :
      BodyEffect s i { s with v := v, fb := fb }
  | mode {i : Instr} (m : Mode) (hi : i = .low ∨ i = .high) : BodyEffect s i (s.setMode m)
  | halt : BodyEffect s .exit { s with halt := true }
  | await (x : RegIdx) (v : Vector Byte 16) (wait : Option RegIdx) (inputs : Inputs) (draws : Nat)
      (hvf : x ≠ 15 → v[15] = s.v[15]) :
      BodyEffect s (.wkey x) { s with v := v, wait := wait, inputs := inputs, draws := draws }
  | delay (x : RegIdx) : BodyEffect s (.setdt x) (s.setDt (s.getV x))
  | sound (x : RegIdx) : BodyEffect s (.setst x) (s.setSt (s.getV x))
  | store {i : Instr} (mem : Memory) (hi : ∃ x, i = .bcd x ∨ i = .stm x) (hwf : Memory.wf s.mem → Memory.wf mem) :
      BodyEffect s i { s with mem := mem }
  | storeHp (x : RegIdx) (hp : Vector Byte 8) : BodyEffect s (.sthp x) { s with hp := hp }

namespace BodyEffect

variable {s t : State} {i : Instr}

theorem setV (x : RegIdx) (b : Byte) (inputs : Inputs) (draws : Nat) (h : mayWriteVf i = false → x ≠ 15) :
    BodyEffect s i { s.setV x b with inputs := inputs, draws := draws } :=
  .registers _ _ _ fun hi => getV_setV_ne s b (h hi).symm

theorem resultAndFlag (op : FlagOp) (x : RegIdx) (r f : Byte) (h : mayWriteVf i = true) :
    BodyEffect s i (s.setResultAndFlag op x r f) := by
  rw [setResultAndFlag_frame]
  exact .registers _ s.inputs _ fun hi => absurd (h.symm.trans hi) (by decide)

theorem skipIf (c : Bool) (inputs : Inputs) (draws : Nat) :
    BodyEffect s i { s.skipIf c with inputs := inputs, draws := draws } := by
  refine .jump _ _ _ fun hpc => ?_
  cases c with
  | false => exact hpc
  | true => exact pcOf_lt _

theorem loadRegs (x : RegIdx) (h : mayWriteVf i = false → x ≠ 15) : BodyEffect s i (s.loadRegs (regsUpTo x)) := by
  rw [loadRegs_frame]
  refine .registers _ s.inputs s.draws fun hi => ?_
  exact (getV_loadRegs _ s flagReg).trans (if_neg (flagReg_notMem_regsUpTo (h hi)))

theorem loadHp (x : RegIdx) (h : x ≠ 15) : BodyEffect s i (s.loadHp (regsUpTo x)) := by
  rw [loadHp_frame]
  exact .registers _ s.inputs s.draws fun _ => (getV_loadHp _ s flagReg).trans (if_neg (flagReg_notMem_regsUpTo h))

theorem awaitKey (x : RegIdx) : BodyEffect s (.wkey x) (s.awaitKey x) := by
  rw [awaitKey_frame]
  exact .await x _ _ _ _ fun hx => getV_awaitKey_ne s hx.symm

theorem sprite (x y : RegIdx) (rows : Nat) {cnt : Nat} (bits : Nat → BitVec cnt)
    (hi : (∃ x y n, i = .drw x y n) ∨ ∃ x y, i = .drw16 x y) (hrows : rows ≤ 32) :
    BodyEffect s i (s.draw x y rows bits) :=
  .draw _ _ hi fun _ _ => pixel_draw_offMode s x y bits hrows

theorem digits (a b c : Nat) (u v w : Byte) (hi : ∃ x, i = .bcd x ∨ i = .stm x) :
    BodyEffect s i (((s.memWrite a u).memWrite b v).memWrite c w) :=
  .store _ hi fun h => wf_memWrite _ _ (wf_memWrite _ _ (wf_memWrite _ _ h))

end BodyEffect

/-- Every body answers a next state, and its effect is one of those listed (40_step_cycle.md R103). -/
theorem exec_effect (s : State) (i : Instr) : ∃ t, exec i s = .next t ∧ BodyEffect s i t := by
  cases i with
  | cls => exact ⟨_, exec_cls s, .clear⟩
  | ret =>
    exact
      if h : 0 < s.sp.val then ⟨_, (exec_ret s).trans (dif_pos h), .ret h⟩
      else ⟨_, (exec_ret s).trans (dif_neg h), .fatal _⟩
  | scd n => exact ⟨_, exec_scd s n, .scroll _ (.inl ⟨n, rfl⟩) fun _ _ => pixel_tabulate_offMode⟩
  | scr => exact ⟨_, exec_scr s, .scroll _ (.inr (.inl rfl)) fun _ _ => pixel_tabulate_offMode⟩
  | scl => exact ⟨_, exec_scl s, .scroll _ (.inr (.inr rfl)) fun _ _ => pixel_tabulate_offMode⟩
  | exit => exact ⟨_, exec_exit s, .halt⟩
  | low => exact ⟨_, exec_low s, .mode _ (.inl rfl)⟩
  | high => exact ⟨_, exec_high s, .mode _ (.inr rfl)⟩
  | jp nnn => exact ⟨_, exec_jp s nnn, .jump _ s.inputs s.draws fun _ => pcOf_lt _⟩
  | call nnn =>
    exact
      if h : s.sp.val < 16 then ⟨_, (exec_call s nnn).trans (dif_pos h), .call nnn h⟩
      else ⟨_, (exec_call s nnn).trans (dif_neg h), .fatal _⟩
  | sei x nn => exact ⟨_, exec_sei s x nn, .skipIf _ s.inputs s.draws⟩
  | snei x nn => exact ⟨_, exec_snei s x nn, .skipIf _ s.inputs s.draws⟩
  | ser x y => exact ⟨_, exec_ser s x y, .skipIf _ s.inputs s.draws⟩
  | sner x y => exact ⟨_, exec_sner s x y, .skipIf _ s.inputs s.draws⟩
  | ldi x nn => exact ⟨_, exec_ldi s x nn, .setV x _ s.inputs s.draws ne_of_beq_false⟩
  | addi x nn => exact ⟨_, exec_addi s x nn, .setV x _ s.inputs s.draws ne_of_beq_false⟩
  | mov x y => exact ⟨_, exec_mov s x y, .setV x _ s.inputs s.draws ne_of_beq_false⟩
  | or x y => exact ⟨_, exec_or s x y, .setV x _ s.inputs s.draws ne_of_beq_false⟩
  | and x y => exact ⟨_, exec_and s x y, .setV x _ s.inputs s.draws ne_of_beq_false⟩
  | xor x y => exact ⟨_, exec_xor s x y, .setV x _ s.inputs s.draws ne_of_beq_false⟩
  | add x y => exact ⟨_, exec_add s x y, .resultAndFlag _ _ _ _ rfl⟩
  | sub x y => exact ⟨_, exec_sub s x y, .resultAndFlag _ _ _ _ rfl⟩
  | shr x y => exact ⟨_, exec_shr s x y, .resultAndFlag _ _ _ _ rfl⟩
  | subn x y => exact ⟨_, exec_subn s x y, .resultAndFlag _ _ _ _ rfl⟩
  | shl x y => exact ⟨_, exec_shl s x y, .resultAndFlag _ _ _ _ rfl⟩
  | ldix nnn => exact ⟨_, exec_ldix s nnn, .index s.v _ (.inl ⟨nnn, rfl⟩) fun _ => rfl⟩
  | jpv0 nnn => exact ⟨_, exec_jpv0 s nnn, .jump _ s.inputs s.draws fun _ => pcOf_lt _⟩
  | rnd x nn => exact ⟨_, exec_rnd s x nn, .setV x _ _ _ ne_of_beq_false⟩
  | drw x y n =>
    exact ⟨_, exec_drw s x y n, .sprite x y n.toNat s.spriteRow8 (.inl ⟨x, y, n, rfl⟩) (n.isLt.le.trans (by decide))⟩
  | drw16 x y => exact ⟨_, exec_drw16 s x y, .sprite x y 16 s.spriteRow16 (.inr ⟨x, y, rfl⟩) (by decide)⟩
  | skp x => exact ⟨_, exec_skp s x, .skipIf _ _ _⟩
  | sknp x => exact ⟨_, exec_sknp s x, .skipIf _ _ _⟩
  | getdt x => exact ⟨_, exec_getdt s x, .setV x _ s.inputs s.draws ne_of_beq_false⟩
  | wkey x => exact ⟨_, exec_wkey s x, .awaitKey x⟩
  | setdt x => exact ⟨_, exec_setdt s x, .delay x⟩
  | setst x => exact ⟨_, exec_setst s x, .sound x⟩
  | addix x => exact ⟨_, exec_addix s x, .index _ _ (.inr ⟨x, .inl rfl⟩) nofun⟩
  | font x => exact ⟨_, exec_font s x, .index s.v _ (.inr ⟨x, .inr (.inl rfl)⟩) fun _ => rfl⟩
  | font10 x => exact ⟨_, exec_font10 s x, .index s.v _ (.inr ⟨x, .inr (.inr rfl)⟩) fun _ => rfl⟩
  | bcd x => exact ⟨_, exec_bcd s x, .digits _ _ _ _ _ _ ⟨x, .inl rfl⟩⟩
  | stm x => exact ⟨_, exec_stm s x, storeRegs_frame _ s ▸ .store _ ⟨x, .inr rfl⟩ (wf_storeRegs _ s)⟩
  | ldm x => exact ⟨_, exec_ldm s x, .loadRegs x ne_of_beq_false⟩
  | sthp x =>
    exact
      if h : x.val > 7 then ⟨_, (exec_sthp s x).trans (if_pos h), .fatal _⟩
      else ⟨_, (exec_sthp s x).trans (if_neg h), storeHp_frame _ s ▸ .storeHp x _⟩
  | ldhp x =>
    exact
      if h : x.val > 7 then ⟨_, (exec_ldhp s x).trans (if_pos h), .fatal _⟩
      else ⟨_, (exec_ldhp s x).trans (if_neg h), .loadHp x fun e => h (e ▸ by decide)⟩

theorem effect_of_exec {i : Instr} {s t : State} (h : exec i s = .next t) : BodyEffect s i t := by
  obtain ⟨u, hu, he⟩ := exec_effect s i
  cases hu.symm.trans h
  exact he

/-! ### What a step can do -/

theorem stopped_eq_false_iff {s : State} : s.stopped = false ↔ s.halt = false ∧ s.fault = none := by
  simp [State.stopped]

theorem running_iff {s : State} : s.Running ↔ s.stopped = false ∧ s.wait = none := by
  rw [stopped_eq_false_iff, and_assoc, State.Running]

/-- The state s with the fields of u that a step can change without running a body: the registers and the waiting
condition (a poll), PC and the latch (an illegal word), the model's own fields. -/
def State.outsideBody (s u : State) : State :=
  { s with v := u.v, pc := u.pc, wait := u.wait, fault := u.fault, inputs := u.inputs, draws := u.draws }

theorem awaitKey_eq_outsideBody (s : State) (x : RegIdx) : s.awaitKey x = s.outsideBody (s.awaitKey x) := by
  rw [State.outsideBody, awaitKey_pc, awaitKey_fault]
  exact awaitKey_frame s x

/-- Before its timer phase a step has either run no body, or it is the step of a running core and has run that of the
fetched instruction. -/
theorem step_before_timers {s t : State} (h : step s = .next t) :
    ∃ u, (t = u ∨ t = u.timerPhase) ∧
      (u = s.outsideBody u ∨ s.Running ∧ ∃ i, decode s.fetch = some i ∧ BodyEffect s.preAdvance i u) := by
  obtain ⟨-, rfl⟩ | ⟨-, x, -, rfl⟩ | ⟨-, -, -, rfl⟩ | ⟨hs, hw, i, u, hd, hu, rfl⟩ := step_cases h
  · exact ⟨_, .inl rfl, .inl rfl⟩
  · exact ⟨_, .inr rfl, .inl (awaitKey_eq_outsideBody s x)⟩
  · exact ⟨_, .inl rfl, .inl rfl⟩
  · exact ⟨u, .inr rfl, .inr ⟨running_iff.2 ⟨hs, hw⟩, i, hd, effect_of_exec hu⟩⟩

/-- What only a body can change, and only that of an instruction with P, is before the timer phase as it was, or the core
runs and has fetched such an instruction. -/
theorem writer_before_timers {α : Type} (f : State → α) {P : Instr → Prop} {s t : State}
    (hf : ∀ s u, f (s.outsideBody u) = f s)
    (hbody : ∀ {i u}, BodyEffect s.preAdvance i u → f u ≠ f s.preAdvance → P i) (h : step s = .next t) :
    ∃ u, (t = u ∨ t = u.timerPhase) ∧ (f u = f s ∨ s.Running ∧ ∃ i, decode s.fetch = some i ∧ P i) := by
  obtain ⟨u, htu, hu | ⟨hrun, i, hd, he⟩⟩ := step_before_timers h
  · exact ⟨u, htu, .inl ((congrArg f hu).trans (hf s u))⟩
  · have hadv : f s.preAdvance = f s := hf s s.preAdvance
    by_cases hne : f u = f s.preAdvance
    · exact ⟨u, htu, .inl (hne.trans hadv)⟩
    · exact ⟨u, htu, .inr ⟨hrun, i, hd, hbody he hne⟩⟩

/-- What only a body and no timer phase can change, changes only in a step of a running core that has fetched an
instruction with such a body. -/
theorem writer_of_step_changes {α : Type} (f : State → α) {P : Instr → Prop} {s t : State}
    (hf : ∀ s u, f (s.outsideBody u) = f s) (hphase : ∀ u, f u.timerPhase = f u)
    (hbody : ∀ {i u}, BodyEffect s.preAdvance i u → f u ≠ f s.preAdvance → P i) (h : step s = .next t)
    (hne : f t ≠ f s) : s.Running ∧ ∃ i, decode s.fetch = some i ∧ P i := by
  obtain ⟨u, htu, hu⟩ := writer_before_timers f hf hbody h
  have hft : f t = f u := by
    rcases htu with rfl | rfl
    · rfl
    · exact hphase u
  exact hu.resolve_left fun e => hne (hft.trans e)

theorem step_of_stopped {s : State} (h : s.stopped = true) : step s = .next s := by
  simp [step, h]

/-! ### Which bodies change a field -/

namespace BodyEffect

variable {s t : State} {i : Instr}

theorem exit_of_halt_ne (he : BodyEffect s i t) (hne : t.halt ≠ s.halt) : i = .exit := by
  cases he with
  | halt => rfl
  | _ => exact absurd rfl hne

theorem index_of_i_ne (he : BodyEffect s i t) (hne : t.i ≠ s.i) :
    (∃ nnn, i = .ldix nnn) ∨ ∃ x, i = .addix x ∨ i = .font x ∨ i = .font10 x := by
  cases he with
  | index _ _ hi => exact hi
  | _ => exact absurd rfl hne

theorem call_or_ret_of_sp_ne (he : BodyEffect s i t) (hne : t.sp ≠ s.sp) : (∃ nnn, i = .call nnn) ∨ i = .ret := by
  cases he with
  | call nnn => exact .inl ⟨nnn, rfl⟩
  | ret => exact .inr rfl
  | _ => exact absurd rfl hne

theorem call_of_stack_ne (he : BodyEffect s i t) (hne : t.stack ≠ s.stack) : ∃ nnn, i = .call nnn := by
  cases he with
  | call nnn => exact ⟨nnn, rfl⟩
  | _ => exact absurd rfl hne

theorem sthp_of_hp_ne (he : BodyEffect s i t) (hne : t.hp ≠ s.hp) : ∃ x, i = .sthp x := by
  cases he with
  | storeHp x => exact ⟨x, rfl⟩
  | _ => exact absurd rfl hne

theorem switch_of_mode_ne (he : BodyEffect s i t) (hne : t.mode ≠ s.mode) : i = .low ∨ i = .high := by
  cases he with
  | mode _ hi => exact hi
  | _ => exact absurd rfl hne

theorem store_of_mem_ne (he : BodyEffect s i t) (hne : t.mem ≠ s.mem) : ∃ x, i = .bcd x ∨ i = .stm x := by
  cases he with
  | store _ hi => exact hi
  | _ => exact absurd rfl hne

theorem display_of_fb_ne (he : BodyEffect s i t) (hne : t.fb ≠ s.fb) :
    i = .cls ∨ ((∃ n, i = .scd n) ∨ i = .scr ∨ i = .scl) ∨ (∃ x y n, i = .drw x y n) ∨ ∃ x y, i = .drw16 x y := by
  cases he with
  | clear => exact .inl rfl
  | scroll _ hi => exact .inr (.inl hi)
  | draw _ _ hi => exact .inr (.inr hi)
  | _ => exact absurd rfl hne

theorem setdt_of_dt_ne (he : BodyEffect s i t) (hne : t.dt ≠ s.dt) : ∃ x, i = .setdt x := by
  cases he with
  | delay x => exact ⟨x, rfl⟩
  | _ => exact absurd rfl hne

theorem setst_of_st_ne (he : BodyEffect s i t) (hne : t.st ≠ s.st) : ∃ x, i = .setst x := by
  cases he with
  | sound x => exact ⟨x, rfl⟩
  | _ => exact absurd rfl hne

theorem cls_of_offMode_pixel_ne (he : BodyEffect s i t) {x y : Nat} (hoff : s.mode.inRect x y = false)
    (hne : t.fb.pixel x y ≠ s.fb.pixel x y) : i = .cls := by
  cases he with
  | clear => rfl
  | scroll _ _ hkeep => exact absurd (hkeep x y hoff) hne
  | draw _ _ _ hkeep => exact absurd (hkeep x y hoff) hne
  | _ => exact absurd rfl hne

theorem vf_of_not_mayWriteVf (he : BodyEffect s i t) (hi : mayWriteVf i = false) : t.getV 15 = s.getV 15 := by
  cases he with
  | registers _ _ _ hvf => exact hvf hi
  | index _ _ _ hvf => exact hvf hi
  | draw _ _ hd => obtain ⟨x, y, n, rfl⟩ | ⟨x, y, rfl⟩ := hd <;> cases hi
  | await _ _ _ _ _ hvf => exact hvf (ne_of_beq_false hi)
  | _ => rfl

end BodyEffect

/-! ### The invariant -/

/-- A state that differs only in fields the invariant does not speak of meets it too. -/
theorem State.Inv.congr {s t : State} (hs : s.Inv) (hpc : t.pc = s.pc) (hstack : t.stack = s.stack) (hmem : t.mem = s.mem)
    (hhalt : t.halt = s.halt) (hfault : t.fault = s.fault) (hwait : t.wait = s.wait) : t.Inv where
  pc_lt := hpc ▸ hs.pc_lt
  stack_lt := hstack ▸ hs.stack_lt
  mem_wf := hmem ▸ hs.mem_wf
  not_both := by rw [hhalt, hfault]; exact hs.not_both
  waiting_running := by rw [hhalt, hfault, hwait]; exact hs.waiting_running

namespace State.Inv

variable {s t : State}

theorem timerPhase (hs : s.Inv) : s.timerPhase.Inv :=
  hs.congr (timerPhase_pc s) (timerPhase_stack s) (timerPhase_mem s) (timerPhase_halt s) (timerPhase_fault s)
    (timerPhase_wait s)

theorem preAdvance (hs : s.Inv) : s.preAdvance.Inv := { hs with pc_lt := pcOf_lt _ }

/-- A running core may latch a fault: it is not halted and awaits no key. -/
theorem raise (hs : s.Inv) (hrun : s.Running) (c : FatalCause) (op : Word) : (s.raise c op).Inv := by
  obtain ⟨hhalt, -, hwait⟩ := hrun
  exact { hs with
    not_both := fun h => absurd (hhalt.symm.trans h) (by decide)
    waiting_running := fun h => absurd hwait h }

/-- A poll leaves a core that is neither halted nor faulted so, whether it goes on waiting or not. -/
theorem awaitKey (hs : s.Inv) (hhalt : s.halt = false) (hfault : s.fault = none) (x : RegIdx) : (s.awaitKey x).Inv := by
  rw [awaitKey_frame]
  exact { hs with waiting_running := fun _ => ⟨hhalt, hfault⟩ }

/-- A call pushes PC, which the invariant bounds. -/
theorem call (hs : s.Inv) (h : s.sp.val < 16) (n : Nat) : ((s.pushPc h).setPc (pcOf n)).Inv :=
  { hs with
    pc_lt := pcOf_lt n
    stack_lt := fun k hk => by
      rw [setPc_stack, pushPc_stack, Vector.getElem_set]
      split
      · exact hs.pc_lt
      · exact hs.stack_lt k hk }

/-- A return copies a stack slot into PC as it is, and the invariant bounds the slot (log 17). -/
theorem ret (hs : s.Inv) (h : 0 < s.sp.val) : (s.popPc h).Inv :=
  { hs with pc_lt := hs.stack_lt _ (by omega) }

theorem body {i : Instr} (hs : s.Inv) (hrun : s.Running) (he : BodyEffect s i t) : t.Inv := by
  cases he with
  | jump _ _ _ hpc => exact { hs with pc_lt := hpc hs.pc_lt }
  | fatal c => exact hs.raise hrun c _
  | call nnn h => exact hs.call h _
  | ret h => exact hs.ret h
  | halt =>
    obtain ⟨-, hfault, hwait⟩ := hrun
    exact { hs with not_both := fun _ => hfault, waiting_running := fun h => absurd hwait h }
  | await =>
    obtain ⟨hhalt, hfault, -⟩ := hrun
    exact { hs with waiting_running := fun _ => ⟨hhalt, hfault⟩ }
  | store _ _ hwf => exact { hs with mem_wf := hwf hs.mem_wf }
  | _ => exact hs.congr rfl rfl rfl rfl rfl rfl

end State.Inv

/-- Settles O13: the invariant is kept by each case of a step, and by each effect a body can have. -/
theorem stepKeepsInv : Obligations.StepKeepsInv := by
  intro s t hs h
  obtain ⟨-, rfl⟩ | ⟨hgo, x, -, rfl⟩ | ⟨hgo, hw, -, rfl⟩ | ⟨hgo, hw, i, u, -, hu, rfl⟩ := step_cases h
  · exact hs
  · obtain ⟨hhalt, hfault⟩ := stopped_eq_false_iff.1 hgo
    exact (hs.awaitKey hhalt hfault x).timerPhase
  · have hrun : s.Running := running_iff.2 ⟨hgo, hw⟩
    exact hs.preAdvance.raise hrun _ _
  · have hrun : s.Running := running_iff.2 ⟨hgo, hw⟩
    exact (hs.preAdvance.body hrun (effect_of_exec hu)).timerPhase

/-- Settles O11: a step that changes the flag ran the body of EXIT, and a halted core does nothing. -/
theorem haltOnlyByExit : Obligations.HaltOnlyByExit := by
  intro s t h
  refine ⟨fun hs ht => ?_, fun hs => ?_, rfl⟩
  · have hne : t.halt ≠ s.halt := by simp [hs, ht]
    obtain ⟨hrun, _, hd, rfl⟩ :=
      writer_of_step_changes State.halt (fun _ _ => rfl) timerPhase_halt BodyEffect.exit_of_halt_ne h hne
    exact ⟨hrun, hd⟩
  · have hstop : s.stopped = true := by simp [State.stopped, hs]
    cases (step_of_stopped hstop).symm.trans h
    exact hs

/-! ### Timers -/

theorem timerPhase_dt_eq_or (s : State) : s.timerPhase.dt = s.dt ∨ s.timerPhase.dt = tick s.dt := by
  cases h : s.completed
  · exact .inl (by rw [timerPhase_of_not_completed h])
  · exact .inr (by rw [timerPhase_of_completed h, setSt_dt, setDt_dt])

theorem timerPhase_st_eq_or (s : State) : s.timerPhase.st = s.st ∨ s.timerPhase.st = tick s.st := by
  cases h : s.completed
  · exact .inl (by rw [timerPhase_of_not_completed h])
  · exact .inr (by rw [timerPhase_of_completed h, setSt_st])

/-- A timer `g` that only the bodies of the instructions `setter x` can change is, after a step that runs none of them,
the same or one tick lower. -/
theorem timer_falls_of_not_set (g : State → Byte) (setter : RegIdx → Instr) (hg : ∀ s u, g (s.outsideBody u) = g s)
    (hphase : ∀ u, g u.timerPhase = g u ∨ g u.timerPhase = tick (g u))
    (hbody : ∀ {s i u}, BodyEffect s i u → g u ≠ g s → ∃ x, i = setter x)
    {s t : State} (h : step s = .next t) (hno : ∀ x, ¬ (s.Running ∧ decode s.fetch = some (setter x))) :
    (g t).toNat ≤ (g s).toNat ∧ (g s).toNat ≤ (g t).toNat + 1 := by
  obtain ⟨u, htu, hus | ⟨hrun, _, hd, x, rfl⟩⟩ := writer_before_timers g hg hbody h
  · have htick : g t = g u ∨ g t = tick (g u) := by
      rcases htu with rfl | rfl
      · exact .inl rfl
      · exact hphase u
    rcases htick with e | e
    · rw [e, hus]
      omega
    · rw [e, hus, tick_toNat]
      omega
  · exact absurd ⟨hrun, hd⟩ (hno x)

/-- Settles O15: only the bodies of SETDT and SETST touch a timer, and the timer phase takes at most one from each. -/
theorem timersOnlyFall : Obligations.TimersOnlyFall := fun _ _ h =>
  ⟨timer_falls_of_not_set State.dt .setdt (fun _ _ => rfl) timerPhase_dt_eq_or BodyEffect.setdt_of_dt_ne h,
    timer_falls_of_not_set State.st .setst (fun _ _ => rfl) timerPhase_st_eq_or BodyEffect.setst_of_st_ne h⟩

/-- Settles O16: of each of the seven fields, the bodies that can change it are its writers. -/
theorem stateWriters : Obligations.StateWriters := by
  intro s t h
  refine ⟨fun hne => ?_, fun hne => ?_, fun hne => ?_, fun hne => ?_, fun hne => ?_, fun hne => ?_, fun hne => ?_⟩
  · obtain ⟨hrun, i, hd, hi⟩ :=
      writer_of_step_changes State.i (fun _ _ => rfl) timerPhase_i BodyEffect.index_of_i_ne h hne
    exact ⟨hrun, by simpa only [hd, Option.some.injEq] using hi⟩
  · obtain ⟨hrun, i, hd, hi⟩ :=
      writer_of_step_changes State.sp (fun _ _ => rfl) timerPhase_sp BodyEffect.call_or_ret_of_sp_ne h hne
    exact ⟨hrun, by simpa only [hd, Option.some.injEq] using hi⟩
  · obtain ⟨hrun, i, hd, hi⟩ :=
      writer_of_step_changes State.stack (fun _ _ => rfl) timerPhase_stack BodyEffect.call_of_stack_ne h hne
    exact ⟨hrun, by simpa only [hd, Option.some.injEq] using hi⟩
  · obtain ⟨hrun, i, hd, hi⟩ :=
      writer_of_step_changes State.hp (fun _ _ => rfl) timerPhase_hp BodyEffect.sthp_of_hp_ne h hne
    exact ⟨hrun, by simpa only [hd, Option.some.injEq] using hi⟩
  · obtain ⟨hrun, i, hd, hi⟩ :=
      writer_of_step_changes State.mode (fun _ _ => rfl) timerPhase_mode BodyEffect.switch_of_mode_ne h hne
    exact ⟨hrun, by simpa only [hd, Option.some.injEq] using hi⟩
  · obtain ⟨hrun, i, hd, hi⟩ :=
      writer_of_step_changes State.mem (fun _ _ => rfl) timerPhase_mem BodyEffect.store_of_mem_ne h hne
    exact ⟨hrun, by simpa only [hd, Option.some.injEq] using hi⟩
  · obtain ⟨hrun, i, hd, hi⟩ :=
      writer_of_step_changes State.fb (fun _ _ => rfl) timerPhase_fb BodyEffect.display_of_fb_ne h hne
    exact ⟨hrun, by simpa only [hd, Option.some.injEq, or_assoc] using hi⟩

/-- Settles O17: each effect of a body on the registers keeps VF unless the instruction may write it. -/
theorem flagKept : Obligations.FlagKept := fun _ _ _ hi h => (effect_of_exec h).vf_of_not_mayWriteVf hi

/-- Settles O18: of the bodies only CLS changes a pixel outside the mode rectangle. -/
theorem offModePixelsInert : Obligations.OffModePixelsInert := by
  intro s t x y h hcls hoff
  by_contra hne
  obtain ⟨hrun, _, hd, rfl⟩ :=
    writer_of_step_changes (fun s => s.fb.pixel x y) (fun _ _ => rfl) (fun u => by rw [timerPhase_fb])
      (fun he => he.cls_of_offMode_pixel_ne hoff) h hne
  exact hcls ⟨hrun, hd⟩

/-! ### Reset -/

/-- Settles O14: PC is 0x200, the stack slots are 0, the memory list is empty, and the core runs. -/
theorem resetHasInv : Obligations.ResetHasInv where
  pc_lt := by decide
  stack_lt := fun k hk => by simp [State.reset]
  mem_wf := wf_nil
  not_both := nofun
  waiting_running := fun h => absurd rfl h

/-- At reset memory lists nothing, so an address above the fonts reads as zero (20_memory.md R52). -/
theorem reset_memRead_of_ge {a : Nat} (h : 0x0F0 ≤ a) (ha : a < 4096) : State.reset.memRead a = 0#8 := by
  have hmod : a % Config.memSize = a := Nat.mod_eq_of_lt ha
  rw [State.memRead, hmod]
  show Memory.unlisted a = 0#8
  rw [Memory.unlisted, if_neg (by omega), if_neg (by omega)]

/-- Settles O54: the reset state's fields as written, the blank grid, and the empty memory list. -/
theorem resetValues : Obligations.ResetValues :=
  ⟨fun r => by simp [State.reset, State.getV], fun k h => by simp [State.reset], rfl, rfl, rfl, rfl, rfl, rfl, rfl, rfl,
    rfl, pixel_blank, fun _ => reset_memRead_of_ge⟩

end Sys2Proof.Machine
end

section
/-! PROOFS. Memory: one byte at each address mod 4096, the canonical list that the 4096 bytes determine, and stores that
the next fetch sees (20_memory.md). -/
namespace Sys2Proof.Machine

/-! ### Addresses mod 4096 -/

theorem memRead_add_mul (s : State) (a k : Nat) : s.memRead (a + 4096 * k) = s.memRead a :=
  congrArg (Memory.read s.mem) (Nat.add_mul_mod_self_left a 4096 k)

theorem memWrite_add_mul (s : State) (a k : Nat) (v : Byte) : s.memWrite (a + 4096 * k) v = s.memWrite a v :=
  congrArg (fun n => { s with mem := Memory.write s.mem n v }) (Nat.add_mul_mod_self_left a 4096 k)

theorem memRead_of_lt (s : State) {a : Nat} (ha : a < 4096) : s.memRead a = Memory.read s.mem a :=
  congrArg (Memory.read s.mem) (Nat.mod_eq_of_lt ha)

/-- Settles O51: both accesses reduce the address mod 4096, and a write replaces the memory list only. -/
theorem memoryReadWrite : Obligations.MemoryReadWrite := fun s a b k v =>
  ⟨memRead_add_mul s a k, memWrite_add_mul s a k v, memRead_of_lt s, memRead_memWrite s a b v, rfl⟩

/-! ### The list that the bytes determine -/

/-- A listed address reads as its entry, for no later entry has the same address. -/
theorem read_of_mem {m : Memory} {a : Nat} {v : Byte} (hp : m.Pairwise fun c d => c.1 < d.1) (hm : (a, v) ∈ m) :
    Memory.read m a = v := by
  induction m with
  | nil => cases hm
  | cons c m ih =>
    obtain ⟨b, w⟩ := c
    rw [List.pairwise_cons] at hp
    obtain ⟨hlt, hp⟩ := hp
    rcases List.mem_cons.1 hm with he | hm
    · cases he
      exact if_pos rfl
    · have hne : a ≠ b := (hlt _ hm).ne'
      exact (if_neg hne).trans (ih hp hm)

/-- An address that reads otherwise than an unlisted one is listed. -/
theorem exists_mem_of_read_ne_unlisted {m : Memory} {a : Nat} (h : Memory.read m a ≠ Memory.unlisted a) :
    ∃ w, (a, w) ∈ m := by
  by_contra hno
  exact h (read_of_not_mem fun c hc he => hno ⟨c.2, he ▸ hc⟩)

/-- The entries of a canonical list are the addresses that read otherwise than unlisted ones, with what they read as. -/
theorem mem_iff_of_wf {m : Memory} (hm : Memory.wf m) (a : Nat) (v : Byte) :
    (a, v) ∈ m ↔ a < 4096 ∧ Memory.read m a = v ∧ v ≠ Memory.unlisted a := by
  obtain ⟨hp, hentry⟩ := hm
  constructor
  · intro h
    obtain ⟨hlt, hne⟩ := hentry _ h
    exact ⟨hlt, read_of_mem hp h, hne⟩
  · rintro ⟨-, rfl, hne⟩
    obtain ⟨w, hw⟩ := exists_mem_of_read_ne_unlisted hne
    rwa [read_of_mem hp hw]

theorem nodup_of_wf {m : Memory} (hm : Memory.wf m) : m.Nodup :=
  hm.1.imp fun hlt he => hlt.ne (congrArg Prod.fst he)

/-- Settles O52: equal bytes give equal entries, and the rising order of the addresses leaves one list of them. -/
theorem memoryCanonical : Obligations.MemoryCanonical := by
  intro m m' hm hm' hread
  have hentries : ∀ c, c ∈ m ↔ c ∈ m' := by
    rintro ⟨a, v⟩
    rw [mem_iff_of_wf hm, mem_iff_of_wf hm']
    exact and_congr_right fun ha => by rw [hread a ha]
  have hperm : m.Perm m' := (List.perm_ext_iff_of_nodup (nodup_of_wf hm) (nodup_of_wf hm')).2 hentries
  exact hperm.eq_of_pairwise (fun _ _ _ _ hlt hgt => absurd hlt hgt.asymm) hm.1 hm'.1

/-! ### Stores that a fetch sees -/

/-- A fetch reads the memory of its state, so it sees at an address what is read there. -/
theorem fetchSees_of_memRead {t : State} {a : Nat} {b : Byte} (p : Word) (h : t.memRead a = b) : FetchSees t p a b := by
  subst h
  refine ⟨?_, ?_⟩
  · rintro rfl
    exact hiByte_fetch { t with pc := p }
  · rintro rfl
    exact (loByte_fetch { t with pc := p }).trans (memRead_ea_mod t _).symm

theorem memRead_stm_at (s : State) {x k : RegIdx} (h : k ≤ x) :
    (s.storeRegs (regsUpTo x)).memRead (s.ea k.val) = s.getV k :=
  memRead_storeRegs_at _ s k (regsUpTo_nodup x) (mem_regsUpTo.2 h)

theorem memRead_stm_other (s : State) {x : RegIdx} {a : Nat} (ha : a < 4096) (h : ∀ k : RegIdx, k ≤ x → a ≠ s.ea k.val) :
    (s.storeRegs (regsUpTo x)).memRead a = s.memRead a :=
  memRead_storeRegs_other _ s a fun k hk => (Nat.mod_eq_of_lt ha).symm ▸ h k (mem_regsUpTo.1 hk)

/-- Reading after a write to EA(k), the address taken from any state u. -/
theorem memRead_memWrite_ea (s u : State) (k : Nat) (v : Byte) {a : Nat} (ha : a < 4096) :
    (s.memWrite (u.ea k) v).memRead a = if a = u.ea k then v else s.memRead a := by
  have hea : u.ea k % 4096 = u.ea k := ea_mod u k
  rw [memRead_memWrite, Nat.mod_eq_of_lt ha, hea]

/-- Reading after writes to EA(0), EA(1) and EA(2), as BCD does them: the last write to an address counts. -/
theorem memRead_three_writes (s : State) (b0 b1 b2 : Byte) {a : Nat} (ha : a < 4096) :
    (((s.memWrite (s.ea 0) b0).memWrite (s.ea 1) b1).memWrite (s.ea 2) b2).memRead a =
      if a = s.ea 2 then b2 else if a = s.ea 1 then b1 else if a = s.ea 0 then b0 else s.memRead a := by
  rw [memRead_memWrite_ea _ s 2 b2 ha, memRead_memWrite_ea _ s 1 b1 ha, memRead_memWrite_ea _ s 0 b0 ha]

theorem ea_ne (s : State) {j k : Nat} (hj : j < 4096) (hk : k < 4096) (h : j ≠ k) : s.ea j ≠ s.ea k :=
  fun e => h (ea_inj s hj hk e)

/-- Settles O53: the bytes that STM and BCD leave in memory, each seen by the fetch. -/
theorem storeThenFetch : Obligations.StoreThenFetch := by
  intro x s p
  have h01 : s.ea 0 ≠ s.ea 1 := ea_ne s (by decide) (by decide) (by decide)
  have h02 : s.ea 0 ≠ s.ea 2 := ea_ne s (by decide) (by decide) (by decide)
  have h12 : s.ea 1 ≠ s.ea 2 := ea_ne s (by decide) (by decide) (by decide)
  refine ⟨⟨_, exec_stm s x, fun k hk => ?_, fun a ha hno => ?_⟩, _, exec_bcd s x, ?_, ?_, ?_, fun a ha h0 h1 h2 => ?_⟩
  · exact fetchSees_of_memRead p (memRead_stm_at s hk)
  · exact fetchSees_of_memRead p (memRead_stm_other s ha hno)
  · exact fetchSees_of_memRead p (by rw [memRead_three_writes s _ _ _ (ea_lt s 0), if_neg h02, if_neg h01, if_pos rfl])
  · exact fetchSees_of_memRead p (by rw [memRead_three_writes s _ _ _ (ea_lt s 1), if_neg h12, if_pos rfl])
  · exact fetchSees_of_memRead p (by rw [memRead_three_writes s _ _ _ (ea_lt s 2), if_pos rfl])
  · exact fetchSees_of_memRead p (by rw [memRead_three_writes s _ _ _ ha, if_neg h2, if_neg h1, if_neg h0])

end Sys2Proof.Machine
end

section
/-! PROOFS. Decoding the words of the encoder, the illegal words, sample words (30_encoding.md R72 to R77). -/
namespace Sys2Proof

/-! ### Decoding an encoded word, format by format

Each lemma takes the rows of one format: where the dispatch on the nibbles gives the instruction `f` of the assembled
fields, the word that holds those fields decodes to `f` of them (30_encoding.md R74). -/

theorem decode_encNNN {h : Nibble} {f : Addr → Instr}
    (hrow : ∀ a b c, decodeNibbles h a b c = some (f (toAddr a b c))) (nnn : Addr) :
    decode (encNNN h nnn) = some (f nnn) := by
  rw [encNNN, decode_wordOf, hrow, toAddr_extract]

theorem decode_encXNN {h : Nibble} {f : RegIdx → Byte → Instr}
    (hrow : ∀ a b c, decodeNibbles h a b c = some (f (regOfNibble a) (toVal b c))) (x : RegIdx) (nn : Byte) :
    decode (encXNN h x nn) = some (f x nn) := by
  rw [encXNN, decode_wordOf, hrow, regOfNibble_nibbleOfReg, toVal_extract]

/-- Format X: the low byte is fixed. -/
theorem decode_encX {h : Nibble} {kk : Byte} {f : RegIdx → Instr}
    (hrow : ∀ a, decodeNibbles h a (kk.extractLsb' 4 4) (kk.extractLsb' 0 4) = some (f (regOfNibble a))) (x : RegIdx) :
    decode (encXNN h x kk) = some (f x) := by
  rw [encXNN, decode_wordOf, hrow, regOfNibble_nibbleOfReg]

/-- Format XY: the low nibble is fixed. -/
theorem decode_encXY {h n : Nibble} {f : RegIdx → RegIdx → Instr}
    (hrow : ∀ a b, decodeNibbles h a b n = some (f (regOfNibble a) (regOfNibble b))) (x y : RegIdx) :
    decode (encXYN h x y n) = some (f x y) := by
  rw [encXYN, decode_wordOf, hrow, regOfNibble_nibbleOfReg, regOfNibble_nibbleOfReg]

/-- Dxyn is a row of its own for each n other than 0; Dxy0 is DRW16 (30_encoding.md R75). -/
theorem decodeNibbles_drw {n : Nibble} (hn : n ≠ 0#4) (a b : Nibble) :
    decodeNibbles 0xD#4 a b n = some (.drw (regOfNibble a) (regOfNibble b) n) :=
  if_neg hn

/-- Settles O1: by the format of each instruction's row, and DRW by its low nibble, which is not 0. -/
theorem decodeEncode : Obligations.DecodeEncode := by
  intro i hwf
  cases i with
  | cls | ret | scr | scl | exit | low | high => rfl
  | scd n => exact decode_wordOf _ _ _ n
  | jp nnn | call nnn | ldix nnn | jpv0 nnn => exact decode_encNNN (fun _ _ _ => rfl) nnn
  | sei x nn | snei x nn | ldi x nn | addi x nn | rnd x nn => exact decode_encXNN (fun _ _ _ => rfl) x nn
  | ser x y | sner x y | mov x y | or x y | and x y | xor x y | add x y | sub x y | shr x y | subn x y | shl x y
  | drw16 x y => exact decode_encXY (fun _ _ => rfl) x y
  | drw x y n => exact decode_encXY (f := fun x y => .drw x y n) (decodeNibbles_drw (bne_iff_ne.1 hwf)) x y
  | skp x | sknp x | getdt x | wkey x | setdt x | setst x | addix x | font x | font10 x | bcd x | stm x | ldm x | sthp x
  | ldhp x => exact decode_encX (fun _ => rfl) x

/-- Settles O4: each word is that of its instruction. -/
theorem decodeSampleWords : Obligations.DecodeSampleWords :=
  ⟨decodeEncode (.scd 3) rfl, decodeEncode (.call 0x20A) rfl, decodeEncode (.sei 1 4) rfl, decodeEncode (.add 2 5) rfl,
    decodeEncode (.ldix 0xFFF) rfl, decodeEncode (.drw 0 1 2) rfl, decodeEncode (.drw16 0 1) rfl,
    decodeEncode (.skp 2) rfl, decodeEncode (.addix 12) rfl, decodeEncode (.ldm 2) rfl⟩

/-! ### Words that select no row -/

/-- Two nibbles make the byte kk when they are its nibbles. -/
theorem toVal_eq_iff (a b : Nibble) (kk : Byte) :
    toVal a b = kk ↔ a = kk.extractLsb' 4 4 ∧ b = kk.extractLsb' 0 4 := by
  have ha := a.isLt
  have hb := b.isLt
  have hk := kk.isLt
  rw [← BitVec.toNat_inj, ← BitVec.toNat_inj, ← BitVec.toNat_inj, toVal_toNat, extractLsb'_four_toNat,
    extractLsb'_four_toNat]
  omega

/-- In the family 0 only the words 00Cn and seven others select a row. -/
theorem decode0_eq_none_iff (a b c : Nibble) :
    decode0 a b c = none ↔ ¬ (a = 0x0#4 ∧
      (b = 0xC#4 ∨ toVal b c = 0xE0#8 ∨ toVal b c = 0xEE#8 ∨ toVal b c = 0xFB#8 ∨ toVal b c = 0xFC#8 ∨
        toVal b c = 0xFD#8 ∨ toVal b c = 0xFE#8 ∨ toVal b c = 0xFF#8)) := by
  simp only [toVal_eq_iff]
  unfold decode0
  split
  case h_1 =>
    split
    case h_1 => simp
    case h_2 => split <;> simp_all
    case h_3 => split <;> simp_all
    case h_4 => simp_all
  case h_2 ha => exact iff_of_true rfl fun h => ha h.1

theorem decode8_eq_none_iff (x y : RegIdx) (n : Nibble) :
    decode8 x y n = none ↔ n = 0x8#4 ∨ n = 0x9#4 ∨ n = 0xA#4 ∨ n = 0xB#4 ∨ n = 0xC#4 ∨ n = 0xD#4 ∨ n = 0xF#4 := by
  unfold decode8
  split
  case h_10 =>
    revert n
    decide
  all_goals simp

theorem decodeE_eq_none_iff (x : RegIdx) (kk : Byte) : decodeE x kk = none ↔ kk ≠ 0x9E#8 ∧ kk ≠ 0xA1#8 := by
  unfold decodeE
  split <;> simp_all

theorem decodeF_eq_none_iff (x : RegIdx) (kk : Byte) :
    decodeF x kk = none ↔ ∀ b ∈ [0x07#8, 0x0A#8, 0x15#8, 0x18#8, 0x1E#8, 0x29#8, 0x30#8, 0x33#8, 0x55#8, 0x65#8, 0x75#8,
      0x85#8], kk ≠ b := by
  unfold decodeF
  split <;> simp_all

/-- Every word of the family D draws: Dxy0 is DRW16, every other word is DRW. -/
theorem decodeNibbles_draw_ne_none (a b n : Nibble) : decodeNibbles 0xD#4 a b n ≠ none := by
  by_cases hn : n = 0#4
  · subst hn
    exact Option.some_ne_none _
  · rw [decodeNibbles_drw hn]
    exact Option.some_ne_none _

/-- Settles O3, family by family: those of one row select for every word (1 to 4, 6, 7, A to D) or for the low nibble 0
(5 and 9); the others are told by their own decoders. -/
theorem illegalWords : Obligations.IllegalWords := by
  intro op
  rw [loByte_eq_toVal, decode]
  generalize nibble3 op = n3, nibble2 op = n2, nibble1 op = n1, nibble0 op = n0
  unfold decodeNibbles
  split
  case h_1 => simp [decode0_eq_none_iff]
  case h_14 => exact iff_of_false (decodeNibbles_draw_ne_none n2 n1 n0) (by simp)
  case h_17 =>
    -- the sixteen families are all the nibbles
    exfalso
    revert n3
    decide
  all_goals simp [decode8_eq_none_iff, decodeE_eq_none_iff, decodeF_eq_none_iff]

end Sys2Proof
end

section
/-! PROOFS. The bodies that do not use the mode do the same in both modes (30_encoding.md R79). -/
namespace Sys2Proof.Machine

/-! ### Operations that the mode does not enter -/

theorem setResultAndFlag_setMode (s : State) (m : Mode) (op : FlagOp) (x : RegIdx) (r f : Byte) :
    (s.setMode m).setResultAndFlag op x r f = (s.setResultAndFlag op x r f).setMode m := by
  by_cases h : x = flagReg
  · subst h
    rw [setResultAndFlag_flagReg, setResultAndFlag_flagReg]
    rfl
  · rw [setResultAndFlag_ne _ _ _ _ h, setResultAndFlag_ne _ _ _ _ h]
    rfl

theorem awaitKey_setMode (s : State) (m : Mode) (x : RegIdx) :
    (s.setMode m).awaitKey x = (s.awaitKey x).setMode m := by
  cases h : s.keyAnswer with
  | some k =>
    rw [awaitKey_some x h]
    exact awaitKey_some (s := s.setMode m) x h
  | none =>
    rw [awaitKey_none x h]
    exact awaitKey_none (s := s.setMode m) x h

theorem storeRegs_setMode (m : Mode) :
    ∀ (ks : List RegIdx) (s : State), (s.setMode m).storeRegs ks = (s.storeRegs ks).setMode m
  | [], _ => rfl
  | k :: ks, s => storeRegs_setMode m ks (s.memWrite (s.ea k.val) (s.getV k))

theorem loadRegs_setMode (m : Mode) :
    ∀ (ks : List RegIdx) (s : State), (s.setMode m).loadRegs ks = (s.loadRegs ks).setMode m
  | [], _ => rfl
  | k :: ks, s => loadRegs_setMode m ks (s.setV k (s.memRead (s.ea k.val)))

theorem storeHp_setMode (m : Mode) :
    ∀ (ks : List RegIdx) (s : State), (s.setMode m).storeHp ks = (s.storeHp ks).setMode m
  | [], _ => rfl
  | k :: ks, s => storeHp_setMode m ks (s.setHp (hpOf k) (s.getV k))

theorem loadHp_setMode (m : Mode) :
    ∀ (ks : List RegIdx) (s : State), (s.setMode m).loadHp ks = (s.loadHp ks).setMode m
  | [], _ => rfl
  | k :: ks, s => loadHp_setMode m ks (s.setV k (s.getHp (hpOf k)))

/-- The body of an instruction that does not use MODE answers the same state in both modes, up to the mode itself. -/
theorem exec_setMode {i : Instr} (hi : usesMode i = false) (s : State) (m : Mode) :
    ∃ t, exec i s = .next t ∧ exec i (s.setMode m) = .next (t.setMode m) := by
  cases i with
  | scd | scr | scl | low | high | drw | drw16 => nomatch hi
  | cls | exit | jp | sei | snei | ser | sner | ldi | addi | mov | or | and | xor | ldix | jpv0 | rnd | skp | sknp
  | getdt | setdt | setst | addix | font | font10 | bcd => exact ⟨_, rfl, rfl⟩
  | add | sub | shr | subn | shl => exact ⟨_, rfl, congrArg _ (setResultAndFlag_setMode s m _ _ _ _)⟩
  | wkey x => exact ⟨_, rfl, congrArg _ (awaitKey_setMode s m x)⟩
  | stm x => exact ⟨_, rfl, congrArg _ (storeRegs_setMode m _ s)⟩
  | ldm x => exact ⟨_, rfl, congrArg _ (loadRegs_setMode m _ s)⟩
  | ret =>
    by_cases h : 0 < s.sp.val
    · exact ⟨_, dif_pos h, dif_pos h⟩
    · exact ⟨_, dif_neg h, dif_neg h⟩
  | call nnn =>
    by_cases h : s.sp.val < 16
    · exact ⟨_, dif_pos h, dif_pos h⟩
    · exact ⟨_, dif_neg h, dif_neg h⟩
  | sthp x =>
    by_cases h : x.val > 7
    · exact ⟨_, if_pos h, if_pos h⟩
    · exact ⟨_, if_neg h, (if_neg h).trans (congrArg _ (storeHp_setMode m _ s))⟩
  | ldhp x =>
    by_cases h : x.val > 7
    · exact ⟨_, if_pos h, if_pos h⟩
    · exact ⟨_, if_neg h, (if_neg h).trans (congrArg _ (loadHp_setMode m _ s))⟩

/-- Settles O19: in the other mode such a body answers the same state with the other mode. -/
theorem modeMattersToDisplayOnly : Obligations.ModeMattersToDisplayOnly := by
  intro i s t m hi h
  obtain ⟨u, hu, hm⟩ := exec_setMode hi s m
  cases hu.symm.trans h
  exact hm

end Sys2Proof.Machine
end

section
/-! PROOFS. The step cycle (40_step_cycle.md): the gate, the fetch, the timer phase, the step of a running core, and the
steps that latch a fault. -/
namespace Sys2Proof

/-! ### The word of a decoded instruction

A fatal body latches its instruction's word (60_exceptions.md R201); that this is the fetched word is read off the
decoder, family by family. -/

theorem encode_of_decode0 {a b c : Nibble} {i : Instr} (h : decode0 a b c = some i) :
    encode i = wordOf 0x0#4 a b c := by
  unfold decode0 at h
  split at h
  case h_1 =>
    split at h
    case h_1 => cases h; rfl
    case h_2 => split at h <;> cases h <;> rfl
    case h_3 => split at h <;> cases h <;> rfl
    case h_4 => cases h
  case h_2 => cases h

theorem encode_of_decode8 {x y : RegIdx} {n : Nibble} {i : Instr} (h : decode8 x y n = some i) :
    encode i = encXYN 0x8#4 x y n := by
  unfold decode8 at h
  split at h <;> cases h <;> rfl

theorem encode_of_decodeE {x : RegIdx} {kk : Byte} {i : Instr} (h : decodeE x kk = some i) :
    encode i = encXNN 0xE#4 x kk := by
  unfold decodeE at h
  split at h <;> cases h <;> rfl

theorem encode_of_decodeF {x : RegIdx} {kk : Byte} {i : Instr} (h : decodeF x kk = some i) :
    encode i = encXNN 0xF#4 x kk := by
  unfold decodeF at h
  split at h <;> cases h <;> rfl

theorem encode_of_decodeNibbles {a b c d : Nibble} {i : Instr} (h : decodeNibbles a b c d = some i) :
    encode i = wordOf a b c d := by
  unfold decodeNibbles at h
  split at h
  case h_1 => exact encode_of_decode0 h
  case h_9 => rw [encode_of_decode8 h, encXYN_regs]
  case h_15 => rw [encode_of_decodeE h, encXNN_toVal]
  case h_16 => rw [encode_of_decodeF h, encXNN_toVal]
  case h_17 => cases h
  case h_6 | h_10 =>
    split at h
    · cases h; subst d; exact encXYN_regs _ _ _ _
    · cases h
  case h_14 =>
    split at h
    · cases h; subst d; exact encXYN_regs _ _ _ _
    · cases h; exact encXYN_regs _ _ _ _
  case h_2 | h_3 | h_11 | h_12 => cases h; exact encNNN_toAddr _ _ _ _
  case h_4 | h_5 | h_7 | h_8 | h_13 => cases h; exact encXNN_toVal _ _ _ _

/-- The word of what a word decodes to is that word (30_encoding.md R79). -/
theorem encode_of_decode {op : Word} {i : Instr} (h : decode op = some i) : encode i = op :=
  (encode_of_decodeNibbles h).trans (wordOf_nibbles op)

theorem wordOfBytes_toNat (hi lo : Byte) : (wordOfBytes hi lo).toNat = hi.toNat * 256 + lo.toNat := by
  rw [wordOfBytes, BitVec.toNat_append, Nat.shiftLeft_eq, Nat.mul_comm, ← Nat.two_pow_add_eq_or_of_lt lo.isLt,
    Nat.mul_comm]

end Sys2Proof

namespace Sys2Proof.Machine

/-! ### The phases of a step -/

theorem preAdvance_eq (s : State) : s.preAdvance = { s with pc := s.pcPlus2 } := rfl

/-- Settles O6: below 4096 the address of the high byte is PC itself. -/
theorem fetchIsBigEndian : Obligations.FetchIsBigEndian := by
  intro s hpc
  rw [State.fetch, wordOfBytes_toNat, memRead_of_lt s hpc]
  rfl

theorem completed_iff {s : State} : s.completed = true ↔ s.fault = none ∧ s.wait = none := by
  simp [State.completed]

/-- Settles O7: the phase ticks both timers exactly when the body has completed. -/
theorem timerPhase : Obligations.TimerPhase := by
  refine fun s => ⟨fun hfault hwait => ?_, fun hstop => ?_⟩
  · rw [timerPhase_of_completed (completed_iff.2 ⟨hfault, hwait⟩)]
    exact ⟨tick_toNat s.dt, tick_toNat s.st, rfl⟩
  · refine timerPhase_of_not_completed ?_
    rw [Bool.eq_false_iff, ne_eq, completed_iff, not_and_or]
    exact hstop

/-- Settles O5: a running core passes the gate and awaits no key, so it fetches, and its word has a body. -/
theorem stepRunsDecoded : Obligations.StepRunsDecoded := by
  intro s i hrun hd
  obtain ⟨hgo, hwait⟩ := running_iff.1 hrun
  rw [← preAdvance_eq]
  simp only [step, hgo, hwait, hd]
  exact if_neg Bool.false_ne_true

/-- Settles O9: such a core does not pass the gate. -/
theorem stoppedCoreDoesNothing : Obligations.StoppedCoreDoesNothing := by
  intro s h
  refine step_of_stopped ?_
  rw [← Bool.not_eq_false, stopped_eq_false_iff, not_and_or, Bool.not_eq_false]
  exact h

/-! ### Fatal conditions -/

/-- The bodies that raise a fatal condition, and in which states (60_exceptions.md R203 to R205). -/
inductive BodyRaises (s : State) : Instr → FatalCause → Prop where
  | overflow (nnn : Addr) (h : s.sp.val = 16) : BodyRaises s (.call nnn) .stackOverflow
  | underflow (h : s.sp.val = 0) : BodyRaises s .ret .stackUnderflow
  | storeRange (x : RegIdx) (h : 7 < x.val) : BodyRaises s (.sthp x) .hpIndexRange
  | loadRange (x : RegIdx) (h : 7 < x.val) : BodyRaises s (.ldhp x) .hpIndexRange

/-- A body leaves the latch as it was, or raises a condition with its own word and writes nothing else. -/
theorem exec_keeps_fault_or_raises (s : State) (i : Instr) :
    ∃ u, exec i s = .next u ∧ (u.fault = s.fault ∨ ∃ c, BodyRaises s i c ∧ u = s.raise c (encode i)) := by
  cases i with
  | call nnn =>
    by_cases h : s.sp.val < 16
    · exact ⟨_, dif_pos h, .inl rfl⟩
    · exact ⟨_, dif_neg h, .inr ⟨_, .overflow nnn (by omega), rfl⟩⟩
  | ret =>
    by_cases h : 0 < s.sp.val
    · exact ⟨_, dif_pos h, .inl rfl⟩
    · exact ⟨_, dif_neg h, .inr ⟨_, .underflow (by omega), rfl⟩⟩
  | sthp x =>
    by_cases h : x.val > 7
    · exact ⟨_, if_pos h, .inr ⟨_, .storeRange x h, rfl⟩⟩
    · exact ⟨_, if_neg h, .inl (storeHp_fault s _)⟩
  | ldhp x =>
    by_cases h : x.val > 7
    · exact ⟨_, if_pos h, .inr ⟨_, .loadRange x h, rfl⟩⟩
    · exact ⟨_, if_neg h, .inl (loadHp_fault s _)⟩
  | add | sub | shr | subn | shl => exact ⟨_, rfl, .inl (setResultAndFlag_fault s _ _ _ _)⟩
  | wkey x => exact ⟨_, rfl, .inl (awaitKey_fault s x)⟩
  | stm x => exact ⟨_, rfl, .inl (storeRegs_fault s _)⟩
  | ldm x => exact ⟨_, rfl, .inl (loadRegs_fault s _)⟩
  | cls => exact ⟨_, rfl, .inl (fbClear_fault s)⟩
  | scd | scr | scl => exact ⟨_, rfl, .inl (setFb_fault s _)⟩
  | drw | drw16 => exact ⟨_, rfl, .inl (draw_fault s _ _ _ _)⟩
  | _ => exact ⟨_, rfl, .inl rfl⟩

theorem fault_eq_or_raises_of_exec {i : Instr} {s u : State} (h : exec i s = .next u) :
    u.fault = s.fault ∨ ∃ c, BodyRaises s i c ∧ u = s.raise c (encode i) := by
  obtain ⟨v, hv, hcases⟩ := exec_keeps_fault_or_raises s i
  cases hv.symm.trans h
  exact hcases

/-- The one way a step latches a fault: a running core raises a condition on the pre-advanced state, with the fetched
word; either the word is illegal or its body raises (40_step_cycle.md R107). -/
theorem raise_of_step_faults {s t : State} (h : step s = .next t) (hs : s.fault = none) (ht : t.fault ≠ none) :
    s.Running ∧ ∃ c, t = s.preAdvance.raise c s.fetch ∧
      (decode s.fetch = none ∧ c = .unknownOpcode ∨ ∃ i, decode s.fetch = some i ∧ BodyRaises s.preAdvance i c) := by
  obtain ⟨-, rfl⟩ | ⟨-, x, -, rfl⟩ | ⟨hgo, hw, hd, rfl⟩ | ⟨hgo, hw, i, u, hd, hu, rfl⟩ := step_cases h
  · exact absurd hs ht
  · exact absurd (by rw [timerPhase_fault, awaitKey_fault, hs]) ht
  · exact ⟨running_iff.2 ⟨hgo, hw⟩, _, rfl, .inl ⟨hd, rfl⟩⟩
  · obtain hkeep | ⟨c, hc, rfl⟩ := fault_eq_or_raises_of_exec hu
    · exact absurd (by rw [timerPhase_fault, hkeep, preAdvance_fault, hs]) ht
    · have hphase : (s.preAdvance.raise c (encode i)).timerPhase = s.preAdvance.raise c (encode i) :=
        timerPhase_of_not_completed rfl
      exact ⟨running_iff.2 ⟨hgo, hw⟩, c, by rw [hphase, encode_of_decode hd], .inr ⟨i, hd, hc⟩⟩

/-- Settles O10: the step raises on the pre-advanced state, the latch keeps the gate shut, and each condition is that
of the illegal word or of a body that raises it. -/
theorem fatalEntry : Obligations.FatalEntry := by
  intro s t r h hs ht
  obtain ⟨hrun, c, rfl, hc⟩ := raise_of_step_faults h hs (by simp [ht])
  cases ht
  refine ⟨hrun, rfl, rfl, stoppedCoreDoesNothing _ (.inr nofun), ?_⟩
  obtain ⟨hd, rfl⟩ | ⟨i, hd, hraise⟩ := hc
  · exact hd
  · cases hraise with
    | overflow nnn hsp => exact ⟨hsp, nnn, hd⟩
    | underflow hsp => exact ⟨hsp, hd⟩
    | storeRange x hx => exact ⟨x, hx, .inl hd⟩
    | loadRange x hx => exact ⟨x, hx, .inr hd⟩

end Sys2Proof.Machine
end

section
/-! PROOFS. The family 0x00..: clear, return, scroll, exit, mode switch (41_system_display_control.md). -/
namespace Sys2Proof.Machine

/-- The word of a well-formed instruction decodes to it, so its number is all that is left to compute. -/
theorem encodes_of_toNat {i : Instr} {n : Nat} (hwf : i.wf = true) (hn : (encode i).toNat = n) : Encodes i n := by
  refine ⟨hn, ?_⟩
  rw [← hn, BitVec.ofNat_toNat, BitVec.setWidth_eq]
  exact decodeEncode i hwf

/-! ### Clear and scroll -/

/-- A grid operation on the mode rectangle gives its pixels the new values: the rectangle lies inside the grid. -/
theorem pixel_tabulate_inRect {m : Mode} {fb : Fb} {g : Nat → Nat → Bool} {x y : Nat} (h : m.inRect x y = true) :
    Fb.pixel (Fb.tabulate fun a b => if m.inRect a b then g a b else Fb.pixel fb a b) x y = g x y := by
  obtain ⟨hx, hy⟩ := (m.inRect_iff x y).1 h
  rw [pixel_tabulate _ (hx.trans_le m.width_le) (hy.trans_le m.height_le), if_pos h]

/-- A body that tabulates the grid anew on the mode rectangle gives the pixels there the new values, and keeps the pixels
outside it and every other field. -/
theorem exec_replaces_inRect {i : Instr} {s : State} {g : Nat → Nat → Bool}
    (h : exec i s = .next (s.setFb (Fb.tabulate fun a b => if s.mode.inRect a b then g a b else s.fb.pixel a b))) :
    ∃ t, exec i s = .next t ∧ t = { s with fb := t.fb } ∧
      (∀ x y, s.mode.inRect x y = true → t.fb.pixel x y = g x y) ∧
      (∀ x y, s.mode.inRect x y = false → t.fb.pixel x y = s.fb.pixel x y) := by
  refine ⟨_, h, rfl, fun x y hin => ?_, fun x y hoff => ?_⟩
  · rw [setFb_fb, pixel_tabulate_inRect hin]
  · rw [setFb_fb, pixel_tabulate_offMode hoff]

/-- Settles O36: the grid left behind is the blank one. -/
theorem clearScreen : Obligations.ClearScreen := fun s =>
  ⟨encodes_of_toNat rfl rfl, _, exec_cls s, pixel_blank, rfl⟩

/-- Settles O37: the body tabulates each pixel of the mode rectangle from n rows above it. -/
theorem scrollDown : Obligations.ScrollDown := fun n s =>
  ⟨encodes_of_toNat rfl (wordOf_toNat _ _ _ n), exec_replaces_inRect (exec_scd s n)⟩

/-- Settles O38: the bodies tabulate each pixel of the mode rectangle from 4 columns beside it. -/
theorem scrollSideways : Obligations.ScrollSideways := fun s =>
  ⟨⟨encodes_of_toNat rfl rfl, exec_replaces_inRect (exec_scr s)⟩,
    encodes_of_toNat rfl rfl, exec_replaces_inRect (exec_scl s)⟩

/-! ### Return -/

theorem exec_ret_of_pos {s : State} (h : 0 < s.sp.val) : exec .ret s = .next (s.popPc h) :=
  (exec_ret s).trans (dif_pos h)

theorem exec_ret_of_sp_zero {s : State} (h : s.sp.val = 0) :
    exec .ret s = .next (s.raise .stackUnderflow (encode .ret)) :=
  (exec_ret s).trans (dif_neg h.not_gt)

/-- Settles O33: RET pops where SP is above 0, and else raises StackUnderflow. -/
theorem returnPops : Obligations.ReturnPops := by
  refine fun s => ⟨encodes_of_toNat rfl rfl, fun k hk hsp => ?_, exec_ret_of_sp_zero⟩
  have hpos : 0 < s.sp.val := by omega
  refine ⟨_, exec_ret_of_pos hpos, ?_, ?_, rfl⟩
  · rw [popPc_sp_val, hsp, Nat.add_sub_cancel]
  · simp only [popPc_pc, hsp, Nat.add_sub_cancel]

/-! ### Exit and mode switch -/

/-- The step of EXIT is completed: the halt flag is set, PC advanced and the timers tick (40_step_cycle.md R104, R108). -/
theorem step_exit {s : State} (hrun : s.Running) (hd : decode s.fetch = some .exit) :
    step s = .next (State.timerPhase { s with pc := s.pcPlus2, halt := true }) := by
  rw [stepRunsDecoded s .exit hrun hd, exec_exit]

/-- Settles O39: the step of EXIT leaves a halted core, whose next step the gate stops. -/
theorem exitLowHigh : Obligations.ExitLowHigh := by
  refine fun s => ⟨⟨encodes_of_toNat rfl rfl, exec_exit s, fun hrun hd => ?_⟩, ⟨encodes_of_toNat rfl rfl, exec_low s⟩,
    ⟨encodes_of_toNat rfl rfl, exec_high s⟩, rfl, rfl, rfl, rfl⟩
  have ⟨_, hfault, hwait⟩ := hrun
  obtain ⟨hdt, hst, -⟩ := (timerPhase { s with pc := s.pcPlus2, halt := true }).1 hfault hwait
  exact ⟨_, step_exit hrun hd, timerPhase_halt _, timerPhase_pc _, hdt, hst,
    stoppedCoreDoesNothing _ (.inl (timerPhase_halt _))⟩

end Sys2Proof.Machine
end

section
/-! PROOFS. Jumps, call, skips (42_jump_call_skip.md; JPV0 by 44_index_jump_random.md R152). -/
namespace Sys2Proof.Machine

/-! ### Jump -/

/-- A 12-bit address as a program counter needs no reduction (42_jump_call_skip.md R121). -/
theorem pcOf_addr (nnn : Addr) : pcOf nnn.toNat = nnn.setWidth 16 := by
  refine BitVec.eq_of_toNat_eq ?_
  rw [pcOf_toNat, Nat.mod_eq_of_lt nnn.isLt, BitVec.toNat_setWidth_of_le (by decide)]

/-- Settles O31: JP loads the address as it is, JPV0 the reduced sum. -/
theorem jumps : Obligations.Jumps := by
  refine fun nnn s => ⟨⟨encodes_of_toNat rfl (encNNN_toNat _ nnn), ?_⟩,
    encodes_of_toNat rfl (encNNN_toNat _ nnn), exec_jpv0 s nnn⟩
  rw [exec_jp, pcOf_addr]
  rfl

/-! ### Call -/

theorem exec_call_of_lt {s : State} (h : s.sp.val < 16) (nnn : Addr) :
    exec (.call nnn) s = .next ((s.pushPc h).setPc (nnn.setWidth 16)) := by
  rw [exec_call, dif_pos h, pcOf_addr]

theorem exec_call_of_full {s : State} (h : s.sp.val = 16) (nnn : Addr) :
    exec (.call nnn) s = .next (s.raise .stackOverflow (encode (.call nnn))) :=
  (exec_call s nnn).trans (dif_neg h.not_lt)

theorem pushPc_stack_same (s : State) (h : s.sp.val < 16) : (s.pushPc h).stack[s.sp.val] = s.pc :=
  Vector.getElem_set_self h

theorem pushPc_stack_ne (s : State) (h : s.sp.val < 16) {k : Nat} (hk : k < 16) (hne : k ≠ s.sp.val) :
    (s.pushPc h).stack[k] = s.stack[k] :=
  Vector.getElem_set_ne h hk hne.symm

theorem encode_call (nnn : Addr) : encode (.call nnn) = BitVec.ofNat 16 (0x2000 + nnn.toNat) := by
  have h : (encode (.call nnn)).toNat = 0x2000 + nnn.toNat := encNNN_toNat _ nnn
  rw [← h, BitVec.ofNat_toNat, BitVec.setWidth_eq]

/-- Settles O32: CALL pushes PC where SP is below 16, and else raises StackOverflow. -/
theorem callPushes : Obligations.CallPushes := by
  refine fun nnn s => ⟨encodes_of_toNat rfl (encNNN_toNat _ nnn), fun h => ?_, fun hfull => ?_⟩
  · exact ⟨_, exec_call_of_lt h nnn, pushPc_stack_same s h, rfl, rfl, fun _ => pushPc_stack_ne s h, rfl⟩
  · rw [exec_call_of_full hfull, encode_call]
    rfl

/-- The pop undoes the push but for the slot that it leaves written, whatever PC the call went to. -/
theorem popPc_pushPc (s : State) (h : s.sp.val < 16) (pc : Word) :
    ((s.pushPc h).setPc pc).popPc (Nat.succ_pos _) = { s with stack := (s.pushPc h).stack } :=
  congrArg (fun p : Word => { s with pc := p, stack := (s.pushPc h).stack }) (pushPc_stack_same s h)

/-- Settles O35: RET pops what CALL has pushed, and only the slot of the return address stays written. -/
theorem callThenReturn : Obligations.CallThenReturn := by
  intro nnn s h
  refine ⟨_, _, exec_call_of_lt h nnn, exec_ret_of_pos (Nat.succ_pos _), ?_⟩
  rw [popPc_pushPc]
  exact ⟨rfl, rfl, pushPc_stack_same s h, fun _ => pushPc_stack_ne s h, rfl⟩

/-! ### Skip -/

/-- A body that is one skip on a test skips on what the test decides (40_step_cycle.md R105). -/
theorem skips_of_exec {i : Instr} {s : State} {b : Bool} {c : Prop} (h : exec i s = .next (s.skipIf b))
    (hb : b = true ↔ c) : Skips i s c := by
  refine ⟨fun hc => ?_, fun hc => ?_⟩
  · rw [h, hb.2 hc]
    rfl
  · rw [h, Bool.eq_false_iff.2 (mt hb.1 hc)]
    rfl

/-- Settles O34: each of the four bodies is one skip on its own comparison. -/
theorem compareSkips : Obligations.CompareSkips := fun x y nn s =>
  ⟨⟨encodes_of_toNat rfl (encXNN_toNat _ x nn), skips_of_exec (exec_sei s x nn) beq_iff_eq⟩,
    ⟨encodes_of_toNat rfl (encXNN_toNat _ x nn), skips_of_exec (exec_snei s x nn) bne_iff_ne⟩,
    ⟨encodes_of_toNat rfl (encXYN_toNat _ x y _), skips_of_exec (exec_ser s x y) beq_iff_eq⟩,
    encodes_of_toNat rfl (encXYN_toNat _ x y _), skips_of_exec (exec_sner s x y) bne_iff_ne⟩

end Sys2Proof.Machine
end

section
/-! PROOFS. Register load, arithmetic, logic and shifts (43_alu.md). -/
namespace Sys2Proof.Machine

/-- The number of a word with two register fields, the fixed nibbles put together as the opcode table writes them. -/
theorem encodes_of_encXYN {i : Instr} {x y : RegIdx} (h n : Nibble) (hwf : i.wf = true)
    (he : encode i = encXYN h x y n) : Encodes i (h.toNat * 4096 + n.toNat + x.val * 256 + y.val * 16) := by
  refine encodes_of_toNat hwf ?_
  rw [he, encXYN_toNat]
  omega

/-! ### One register written -/

theorem add_eq_ofNat (a b : Byte) : a + b = BitVec.ofNat 8 ((a.toNat + b.toNat) % 256) := by
  rw [← BitVec.toNat_add, BitVec.ofNat_toNat, BitVec.setWidth_eq]

/-- A body that is one write to a register writes that register and nothing else. -/
theorem writesReg_of_exec {i : Instr} {s : State} {x : RegIdx} {b c : Byte} (h : exec i s = .next (s.setV x b))
    (hb : b = c) : WritesReg i s x c := by
  subst hb
  exact ⟨_, h, getV_setV_same s x b, fun _ => getV_setV_ne s b, setV_frame s x b⟩

/-- Settles O20: LDI and MOV are one write to Vx. -/
theorem loadAndMove : Obligations.LoadAndMove := fun x y nn s =>
  ⟨⟨encodes_of_toNat rfl (encXNN_toNat _ x nn), writesReg_of_exec (exec_ldi s x nn) rfl⟩,
    encodes_of_encXYN 8 0 rfl rfl, writesReg_of_exec (exec_mov s x y) rfl⟩

/-- Settles O21: ADDI is one write to Vx, of the 8-bit sum. -/
theorem addImmediate : Obligations.AddImmediate := fun x nn s =>
  ⟨encodes_of_toNat rfl (encXNN_toNat _ x nn), writesReg_of_exec (exec_addi s x nn) (add_eq_ofNat _ nn)⟩

/-- Settles O22: OR, AND and XOR are one write to Vx. -/
theorem logic : Obligations.Logic := fun x y s =>
  ⟨⟨encodes_of_encXYN 8 1 rfl rfl, writesReg_of_exec (exec_or s x y) rfl⟩,
    ⟨encodes_of_encXYN 8 2 rfl rfl, writesReg_of_exec (exec_and s x y) rfl⟩,
    encodes_of_encXYN 8 3 rfl rfl, writesReg_of_exec (exec_xor s x y) rfl⟩

/-! ### A result and its flag -/

theorem setResultAndFlag_getV_flagReg (s : State) (op : FlagOp) (r f : Byte) :
    (s.setResultAndFlag op flagReg r f).getV flagReg =
      (match Config.vfOrder op s.draws with | .flagLast => f | .resultLast => r) := by
  rw [setResultAndFlag_flagReg]
  exact getV_setV_same s _ _

/-- Whatever the free choice is, VF as destination ends as the result or as the flag (43_alu.md R143). -/
theorem setResultAndFlag_getV_flagReg_eq_or (s : State) (op : FlagOp) (r f : Byte) :
    (s.setResultAndFlag op flagReg r f).getV flagReg = r ∨ (s.setResultAndFlag op flagReg r f).getV flagReg = f := by
  rw [setResultAndFlag_getV_flagReg]
  cases Config.vfOrder op s.draws
  case flagLast => exact .inr rfl
  case resultLast => exact .inl rfl

/-- A body that is the two writes of a result and its flag has the effect of 43_alu.md R130 and R143. -/
theorem writesRegAndFlag_of_exec {i : Instr} {op : FlagOp} {s : State} {x : RegIdx} {r f r' f' : Byte}
    (h : exec i s = .next (s.setResultAndFlag op x r f)) (hr : r = r') (hf : f = f') : WritesRegAndFlag i s x r' f' := by
  subst hr hf
  refine ⟨_, h, fun hx => ?_, fun hx => ?_, fun _ => setResultAndFlag_getV_other s op r f,
    setResultAndFlag_frame s op x r f⟩
  · rw [setResultAndFlag_ne s op r f hx]
    exact ⟨(getV_setV_ne _ f hx).trans (getV_setV_same s x r), getV_setV_same _ _ f, rfl⟩
  · subst hx
    exact ⟨setResultAndFlag_getV_flagReg_eq_or s op r f, by rw [setResultAndFlag_flagReg]; rfl⟩

/-- With VF as destination, the two writes leave in VF what the free choice puts last. -/
theorem finalVf_of_exec {i : Instr} {op : FlagOp} {s : State} {r f r' f' : Byte}
    (h : exec i s = .next (s.setResultAndFlag op flagReg r f)) (hr : r = r') (hf : f = f') : FinalVf i op s r' f' := by
  subst hr hf
  exact ⟨_, h, setResultAndFlag_getV_flagReg s op r f⟩

/-! ### Results and flags as numbers -/

theorem addFlag_eq_ite_sub (a b : Byte) : addFlag a b = if 0xFF - a.toNat < b.toNat then 1#8 else 0#8 := by
  simp [addFlag, flagByte]

theorem sub_eq_ofNat (a b : Byte) : a - b = BitVec.ofNat 8 ((a.toNat + 256 - b.toNat) % 256) := by
  refine BitVec.eq_of_toNat_eq ?_
  rw [BitVec.toNat_sub, BitVec.toNat_ofNat]
  omega

theorem shr_eq_ofNat (a : Byte) : a >>> 1 = BitVec.ofNat 8 (a.toNat / 2) := by
  refine BitVec.eq_of_toNat_eq ?_
  rw [BitVec.toNat_ushiftRight, Nat.shiftRight_eq_div_pow, BitVec.toNat_ofNat]
  omega

theorem shl_eq_ofNat (a : Byte) : a <<< 1 = BitVec.ofNat 8 (a.toNat * 2 % 256) := by
  refine BitVec.eq_of_toNat_eq ?_
  rw [BitVec.toNat_shiftLeft, Nat.shiftLeft_eq, BitVec.toNat_ofNat]
  omega

theorem flagByte_getLsbD (a : Byte) (k : Nat) : flagByte (a.getLsbD k) = BitVec.ofNat 8 (a.toNat / 2 ^ k % 2) := by
  rw [BitVec.getLsbD, Nat.testBit_eq_decide_div_mod_eq]
  obtain h | h := Nat.mod_two_eq_zero_or_one (a.toNat / 2 ^ k) <;> rw [h] <;> rfl

theorem shrFlag_eq_ofNat (a : Byte) : shrFlag a = BitVec.ofNat 8 (a.toNat % 2) := by
  rw [shrFlag, flagByte_getLsbD, pow_zero, Nat.div_one]

theorem shlFlag_eq_ofNat (a : Byte) : shlFlag a = BitVec.ofNat 8 (a.toNat / 128) := by
  rw [shlFlag, flagByte_getLsbD]
  exact congrArg (BitVec.ofNat 8) (Nat.mod_eq_of_lt (show a.toNat / 128 < 2 by omega))

/-! ### The five operations -/

/-- Settles O23: ADD writes the 8-bit sum and its carry. -/
theorem addSetsCarry : Obligations.AddSetsCarry := fun x y s =>
  ⟨encodes_of_encXYN 8 4 rfl rfl,
    writesRegAndFlag_of_exec (exec_add s x y) (add_eq_ofNat _ _) (addFlag_eq_ite_sub _ _)⟩

/-- Settles O24: SUB and SUBN write the 8-bit difference and the strict comparison. -/
theorem subtractionsSetBorrow : Obligations.SubtractionsSetBorrow := fun x y s =>
  ⟨⟨encodes_of_encXYN 8 5 rfl rfl, writesRegAndFlag_of_exec (exec_sub s x y) (sub_eq_ofNat _ _) (subFlag_eq _ _)⟩,
    encodes_of_encXYN 8 7 rfl rfl, writesRegAndFlag_of_exec (exec_subn s x y) (sub_eq_ofNat _ _) (subFlag_eq _ _)⟩

/-- Settles O25: SHR and SHL write Vx shifted by one and the bit shifted out, whatever y is. -/
theorem shiftsSetBitOut : Obligations.ShiftsSetBitOut := fun x y s =>
  ⟨⟨encodes_of_encXYN 8 6 rfl rfl, writesRegAndFlag_of_exec (exec_shr s x y) (shr_eq_ofNat _) (shrFlag_eq_ofNat _)⟩,
    encodes_of_encXYN 8 14 rfl rfl, writesRegAndFlag_of_exec (exec_shl s x y) (shl_eq_ofNat _) (shlFlag_eq_ofNat _)⟩

/-- Settles O26: each of the five bodies is the two writes to VF, of values taken from the old VF. -/
theorem flagRegisterAsDestination : Obligations.FlagRegisterAsDestination := fun y s =>
  ⟨finalVf_of_exec (exec_add s 15 y) rfl (addFlag_eq_ite_sub _ _),
    finalVf_of_exec (exec_sub s 15 y) rfl (subFlag_eq _ _),
    finalVf_of_exec (exec_shr s 15 y) (shr_eq_ofNat _) (shrFlag_eq_ofNat _),
    finalVf_of_exec (exec_subn s 15 y) rfl (subFlag_eq _ _),
    finalVf_of_exec (exec_shl s 15 y) (shl_eq_ofNat _) (shlFlag_eq_ofNat _)⟩

end Sys2Proof.Machine
end

section
/-! PROOFS. Index load and random byte (44_index_jump_random.md). -/
namespace Sys2Proof.Machine

/-- Settles O27: the 12 bits of nnn need no reduction (44_index_jump_random.md R151). -/
theorem indexLoad : Obligations.IndexLoad := by
  refine fun nnn s => ⟨encodes_of_toNat rfl (encNNN_toNat _ nnn), ?_⟩
  rw [exec_ldix, State.setI, BitVec.ofNat_toNat, BitVec.setWidth_eq]

/-! ### The drawn byte and its mask -/

/-- A listed byte is the one drawn (log 6). -/
theorem rndByte_of_listed {s : State} {b : Byte} {bs : List Byte} (h : s.inputs.rnd = b :: bs) : s.rndByte = b := by
  rw [State.rndByte, h]

/-- With no byte listed, the one drawn is the free value of this draw (log 6). -/
theorem rndByte_of_unlisted {s : State} (h : s.inputs.rnd = []) : s.rndByte = Config.rnd s.draws := by
  rw [State.rndByte, h]

theorem mask_and_not_mask (nn r : Byte) : (nn &&& r) &&& ~~~nn = 0#8 := by
  rw [BitVec.and_comm nn r, BitVec.and_assoc, BitVec.and_not_self]
  exact BitVec.and_zero

/-- A byte inside the mask is its own masked byte. -/
theorem mask_eq_self {nn v : Byte} (h : v &&& ~~~nn = 0#8) : nn &&& v = v := by
  refine BitVec.eq_of_getElem_eq fun k hk => ?_
  have hbit : (v &&& ~~~nn)[k] = false := h ▸ BitVec.getElem_zero hk
  simpa using hbit

/-- Settles O30: the body is one draw and one write to Vx; a value inside the mask is reached by drawing that value. -/
theorem randomIsMasked : Obligations.RandomIsMasked := by
  refine fun x nn s => ⟨encodes_of_toNat rfl (encXNN_toNat _ x nn),
    ⟨_, s.rndByte, exec_rnd s x nn, getV_setV_same _ x _, ?_, fun b bs h => ⟨rndByte_of_listed h, ?_⟩,
      rndByte_of_unlisted, fun _ => getV_setV_ne s.drawnRnd _, rfl, rfl⟩,
    fun v hv bs h => ⟨_, exec_rnd s x nn, ?_⟩⟩
  · rw [getV_setV_same, mask_and_not_mask]
  · exact congrArg List.tail h
  · rw [getV_setV_same, rndByte_of_listed h, mask_eq_self hv]

end Sys2Proof.Machine
end

section
/-! PROOFS. The draw instructions (45_draw_framebuffer.md R170 to R172): which pixels a draw flips, what it leaves in VF. -/
namespace Sys2Proof.Machine

/-- The 1 over a column k as the spec counts it: bit c from the left of a row that starts at the column x (R161, R164). -/
theorem rowBit_eq_true_iff {cnt : Nat} (bits : BitVec cnt) (x k : Nat) :
    rowBit bits x k = true ↔ ∃ c, c < cnt ∧ k = x + c ∧ bits.getLsbD (cnt - 1 - c) = true := by
  simp only [rowBit, Bool.and_eq_true, decide_eq_true_eq]
  constructor
  · rintro ⟨⟨hle, hlt⟩, hbit⟩
    exact ⟨k - x, by omega, by omega, hbit⟩
  · rintro ⟨c, hc, rfl, hbit⟩
    exact ⟨⟨by omega, by omega⟩, by rwa [Nat.add_sub_cancel_left]⟩

theorem flagByte_eq_one_iff (c : Bool) : flagByte c = 1#8 ↔ c = true := by cases c <;> decide

section
variable (s : State) (x y : RegIdx) {rows cnt : Nat} (sprite : Nat → BitVec cnt)

theorem spriteBitAt_iff_rowBit {px py : Nat} :
    SpriteBitAt s x y rows sprite px py ↔ px < s.mode.width ∧ ∃ r, r < rows ∧
      py = ((s.getV y).toNat + r) % s.mode.height ∧ rowBit (sprite r) ((s.getV x).toNat % s.mode.width) px = true := by
  simp only [SpriteBitAt, rowBit_eq_true_iff]
  refine and_congr_right fun _ => exists_congr fun r => ⟨?_, ?_⟩
  · rintro ⟨c, hr, hc, hpx, hpy, hbit⟩
    exact ⟨hr, hpy, c, hc, hpx, hbit⟩
  · rintro ⟨hr, hpy, c, hc, hpx, hbit⟩
    exact ⟨c, hr, hc, hpx, hpy, hbit⟩

/-- A sprite of at most 32 rows is no higher than the mode rectangle of either mode, so no two of its rows share a line. -/
theorem lt_height_of_mem_range (m : Mode) (hrows : rows ≤ 32) : ∀ r ∈ List.range rows, r < m.height := fun _ hr =>
  (List.mem_range.1 hr).trans_le (hrows.trans m.height_ge)

/-- A draw flips the pixels under a sprite bit, and no others (R172). -/
theorem pixel_draw_ne_iff (hrows : rows ≤ 32) (px py : Nat) :
    (s.draw x y rows sprite).fb.pixel px py ≠ s.fb.pixel px py ↔ SpriteBitAt s x y rows sprite px py := by
  have hxor := pixel_drawRows s.mode ((s.getV x).toNat % s.mode.width) (s.getV y).toNat sprite px py _ (s.fb, false)
    List.nodup_range (lt_height_of_mem_range s.mode hrows)
  rw [State.draw, setV_fb, setFb_fb, hxor, ← Bool.xor_iff_ne, Bool.xor_right_comm, Bool.xor_self, Bool.false_xor,
    spriteBitAt_iff_rowBit]
  simp only [Bool.and_eq_true, decide_eq_true_eq, List.any_eq_true, List.mem_range]

/-- VF is 1 after a draw iff some pixel was set before and lies under a sprite bit (R172). -/
theorem getV_draw_flagReg_eq_one_iff (hrows : rows ≤ 32) : (s.draw x y rows sprite).getV flagReg = 1#8 ↔
    ∃ px py, s.fb.pixel px py = true ∧ SpriteBitAt s x y rows sprite px py := by
  rw [State.draw, getV_setV_same, flagByte_eq_one_iff,
    snd_drawRows _ _ _ _ _ _ List.nodup_range (lt_height_of_mem_range s.mode hrows)]
  simp only [spriteBitAt_iff_rowBit, List.mem_range, Bool.false_eq_true, false_or]
  constructor
  · rintro ⟨r, hr, k, hk, hset, hbit⟩
    exact ⟨k, _, hset, hk, r, hr, rfl, hbit⟩
  · rintro ⟨px, py, hset, hpx, r, hr, rfl, hbit⟩
    exact ⟨r, hr, px, hpx, hset, hbit⟩

theorem getV_draw_flagReg_eq_zero_or_one :
    (s.draw x y rows sprite).getV flagReg = 0#8 ∨ (s.draw x y rows sprite).getV flagReg = 1#8 := by
  rw [State.draw, getV_setV_same]
  exact flagByte_eq _

/-- A body that is one draw of a sprite has the effect of 45_draw_framebuffer.md R172. -/
theorem draws_of_exec {i : Instr} {row : Nat → BitVec cnt} (h : exec i s = .next (s.draw x y rows sprite))
    (hrows : rows ≤ 32) (hrow : sprite = row) : Draws i s x y rows row := by
  subst hrow
  have hone := getV_draw_flagReg_eq_one_iff s x y sprite hrows
  refine ⟨_, h, pixel_draw_ne_iff s x y sprite hrows, hone.2, fun hunset => ?_, fun _ => getV_setV_ne _ _, rfl⟩
  refine (getV_draw_flagReg_eq_zero_or_one s x y sprite).resolve_right fun h1 => ?_
  obtain ⟨px, py, hset, hbit⟩ := hone.1 h1
  simp [hunset px py hbit] at hset

end

/-! ### The rows of a sprite in memory -/

/-- A data address is reduced already, so the read does not reduce it again (20_memory.md R54). -/
theorem memRead_ea (s : State) (k : Nat) : s.memRead (s.ea k) = Memory.read s.mem ((s.i.toNat + k) % 4096) :=
  memRead_of_lt s (Nat.mod_lt _ (by decide))

/-- Settles O40: DRW draws n rows of one byte; n is below 16. -/
theorem drawSprite : Obligations.DrawSprite := by
  refine fun x y n s => ⟨fun hn => encodes_of_toNat (bne_iff_ne.2 hn) (encXYN_toNat _ x y n),
    draws_of_exec s x y _ (exec_drw s x y n) (by omega) ?_⟩
  exact funext (memRead_ea s)

/-- Settles O41: DRW16 draws 16 rows of two bytes, whatever the mode. -/
theorem drawSprite16 : Obligations.DrawSprite16 := by
  refine fun x y s => ⟨encodes_of_encXYN 0xD 0 rfl rfl, draws_of_exec s x y _ (exec_drw16 s x y) (by decide) ?_⟩
  exact funext fun r => congrArg₂ (· ++ ·) (memRead_ea s (2 * r)) (memRead_ea s (2 * r + 1))

end Sys2Proof.Machine
end

section
/-! PROOFS. Key and timer instructions (46_keys_timers.md). -/
namespace Sys2Proof.Machine

/-- The number of a word with one register field, the fixed nibble and byte put together as the opcode table writes
them. -/
theorem encodes_of_encXNN {i : Instr} {x : RegIdx} (h : Nibble) (nn : Byte) (hwf : i.wf = true)
    (he : encode i = encXNN h x nn) : Encodes i (h.toNat * 4096 + nn.toNat + x.val * 256) := by
  refine encodes_of_toNat hwf ?_
  rw [he, encXNN_toNat]
  omega

/-! ### Key skips -/

/-- For an index up to 15 a listed sample decides the key state (46_keys_timers.md R180; log 7). -/
theorem keyDown_of_listed {s : State} {k : Byte} {sample : Word} {rest : List Word}
    (h : s.inputs.keyDown = sample :: rest) (hk : k.toNat < 16) : s.keyDown k = sample.getLsbD k.toNat := by
  rw [State.keyDown, h]
  exact if_pos hk

theorem skipIf_not (s : State) (c : Bool) :
    s.skipIf (!c) = { s with pc := if c then s.pc else s.pcPlus2 } := by
  cases c <;> rfl

/-- Settles O42: both bodies sample key_down once, for the same byte, and skip on opposite tests. -/
theorem keySkips : Obligations.KeySkips := fun x s =>
  ⟨encodes_of_encXNN 0xE 0x9E rfl rfl, encodes_of_encXNN 0xE 0xA1 rfl rfl,
    s.keyDown (s.getV x), s.drawnKeyDown, exec_skp s x,
    (exec_sknp s x).trans (congrArg _ (skipIf_not s.drawnKeyDown _)), fun _ _ => keyDown_of_listed, rfl⟩

/-! ### Timer moves -/

theorem timerPhase_getV (s : State) (q : RegIdx) : s.timerPhase.getV q = s.getV q := by
  rw [State.getV, timerPhase_v]
  rfl

/-- The step of a body that has run to its end: what the body left, each timer one lower (40_step_cycle.md R104). -/
theorem step_of_completed_body {s u : State} {i : Instr} (hrun : s.Running) (hd : decode s.fetch = some i)
    (hu : exec i { s with pc := s.pcPlus2 } = .next u) (hfault : u.fault = s.fault) (hwait : u.wait = s.wait) :
    ∃ t, step s = .next t ∧ (∀ q, t.getV q = u.getV q) ∧ t.dt.toNat = u.dt.toNat - 1 ∧ t.st.toNat = u.st.toNat - 1 := by
  have ⟨_, hsfault, hswait⟩ := hrun
  obtain ⟨hdt, hst, -⟩ := (timerPhase u).1 (hfault.trans hsfault) (hwait.trans hswait)
  refine ⟨u.timerPhase, ?_, timerPhase_getV u, hdt, hst⟩
  rw [stepRunsDecoded s i hrun hd, hu]

/-- Settles O43: each body is one move, and the timer phase of its step works on what the move left. -/
theorem timerMoves : Obligations.TimerMoves := by
  refine fun x s => ⟨⟨encodes_of_encXNN 0xF 0x07 rfl rfl, writesReg_of_exec (exec_getdt s x) rfl, fun hrun hd => ?_⟩,
    ⟨encodes_of_encXNN 0xF 0x15 rfl rfl, exec_setdt s x, fun hrun hd => ?_⟩,
    encodes_of_encXNN 0xF 0x18 rfl rfl, exec_setst s x, fun hrun hd => ?_⟩
  · obtain ⟨t, ht, hv, hdt, -⟩ := step_of_completed_body hrun hd (exec_getdt _ x) rfl rfl
    exact ⟨t, ht, (hv x).trans (getV_setV_same _ x s.dt), hdt⟩
  · obtain ⟨t, ht, -, hdt, -⟩ := step_of_completed_body hrun hd (exec_setdt _ x) rfl rfl
    exact ⟨t, ht, hdt⟩
  · obtain ⟨t, ht, -, -, hst⟩ := step_of_completed_body hrun hd (exec_setst _ x) rfl rfl
    exact ⟨t, ht, hst⟩

/-! ### One poll of the key handshake -/

/-- A listed answer is the one given (log 8). -/
theorem keyAnswer_of_listed {s : State} {a : Option Nibble} {rest : List (Option Nibble)}
    (h : s.inputs.keyWait = a :: rest) : s.keyAnswer = a := by
  rw [State.keyAnswer, h]

theorem getV_awaitKey_same {s : State} {k : Nibble} (x : RegIdx) (h : s.keyAnswer = some k) :
    ((s.awaitKey x).getV x).toNat = k.toNat := by
  rw [awaitKey_some x h]
  exact (congrArg BitVec.toNat (getV_setV_same s.drawnKeyWait x _)).trans (BitVec.toNat_setWidth_of_le (by decide))

/-- A poll with a listed key ends the wait, and changes nothing else but the registers and the model's own fields. -/
theorem awaitKey_listed_frame {s : State} {k : Nibble} {rest : List (Option Nibble)} (x : RegIdx)
    (h : s.inputs.keyWait = some k :: rest) :
    s.awaitKey x = { s with
      v := (s.awaitKey x).v, wait := none, inputs := { s.inputs with keyWait := rest }, draws := s.draws + 1 } := by
  have hrest : rest = s.inputs.keyWait.tail := (congrArg List.tail h).symm
  rw [awaitKey_some x (keyAnswer_of_listed h), hrest]
  rfl

/-- Settles O44: the body is one poll, and the listed answer is the key. -/
theorem keyWaitCompletes : Obligations.KeyWaitCompletes := by
  refine fun x k rest s => ⟨encodes_of_encXNN 0xF 0x0A rfl rfl, fun h => ?_⟩
  have hframe := awaitKey_listed_frame x h
  exact ⟨_, exec_wkey s x, getV_awaitKey_same x (keyAnswer_of_listed h), congrArg State.wait hframe,
    fun _ => getV_awaitKey_ne s, hframe⟩

/-! ### Polls step after step -/

/-- A core that waits in Fx0A polls again; nothing is fetched (46_keys_timers.md R185). -/
theorem step_of_waiting {s : State} {x : RegIdx} (hgo : s.stopped = false) (hwait : s.wait = some x) :
    step s = .next (s.awaitKey x).timerPhase := by
  simp only [step, hgo, hwait]
  exact if_neg Bool.false_ne_true

/-- The last of n + 1 steps. -/
theorem runSteps_succ_of_next {n : Nat} {s t : State} (h : runSteps n s = .next t) : runSteps (n + 1) s = step t := by
  induction n generalizing s with
  | zero =>
    cases h
    rw [runSteps]
    cases step t <;> rfl
  | succ n ih =>
    rw [runSteps] at h ⊢
    cases hs : step s with
    | next u => rw [hs] at h; exact ih h
    | fault r => rw [hs] at h; cases h
    | refused r => rw [hs] at h; cases h

/-- What the WKEY at PC polls once it has taken j answers: the pre-advanced state but for the model's own fields. -/
def State.afterPolls (s : State) (j : Nat) : State :=
  { s with
    pc := s.pcPlus2, inputs := { s.inputs with keyWait := s.inputs.keyWait.drop j }, draws := s.draws + j }

theorem drawnKeyWait_afterPolls (s : State) (j : Nat) : (s.afterPolls j).drawnKeyWait = s.afterPolls (j + 1) := by
  rw [State.drawnKeyWait, State.afterPolls, State.afterPolls, List.tail_drop]
  rfl

/-- Poll j with no key leaves the core waiting, and its step without a timer phase (D22). -/
theorem poll_without_key {s : State} {x : RegIdx} {j : Nat} (h : s.inputs.keyWait[j]? = some none) :
    ((s.afterPolls j).awaitKey x).timerPhase = { s.afterPolls (j + 1) with wait := some x } := by
  have hlist : (s.afterPolls j).inputs.keyWait = none :: s.inputs.keyWait.drop (j + 1) := by
    obtain ⟨hj, hget⟩ := List.getElem?_eq_some_iff.1 h
    rw [← hget]
    exact List.drop_eq_getElem_cons hj
  rw [awaitKey_none x (keyAnswer_of_listed hlist), drawnKeyWait_afterPolls]
  exact (timerPhase _).2 (.inr (Option.some_ne_none x))

/-- A poll that gets a listed key delivers it, and the timer phase of its step ticks both timers (R104). -/
theorem poll_with_key {s t : State} {k : Nibble} {rest : List (Option Nibble)} (x : RegIdx) (hfault : s.fault = none)
    (hwait : s.wait = none) (h : s.inputs.keyWait = some k :: rest) (ht : t = (s.awaitKey x).timerPhase) :
    (t.getV x).toNat = k.toNat ∧ (∀ q, q ≠ x → t.getV q = s.getV q) ∧
      t.dt.toNat = s.dt.toNat - 1 ∧ t.st.toNat = s.st.toNat - 1 ∧
      t = { s with
        v := t.v, dt := t.dt, st := t.st, inputs := { s.inputs with keyWait := rest }, draws := s.draws + 1 } := by
  have hframe := awaitKey_listed_frame x h
  obtain ⟨hdt, hst, hphase⟩ :=
    (timerPhase (s.awaitKey x)).1 ((awaitKey_fault s x).trans hfault) (congrArg State.wait hframe)
  rw [awaitKey_dt] at hdt
  rw [awaitKey_st] at hst
  rw [← hwait] at hframe
  subst ht
  refine ⟨?_, fun q hq => ?_, hdt, hst, ?_⟩
  · rw [timerPhase_getV, getV_awaitKey_same x (keyAnswer_of_listed h)]
  · rw [timerPhase_getV, getV_awaitKey_ne s hq]
  · rw [timerPhase_v]
    exact hphase.trans (congrArg (fun u : State =>
      { u with dt := (s.awaitKey x).timerPhase.dt, st := (s.awaitKey x).timerPhase.st }) hframe)

/-- While every poll so far has given no key, step j + 1 of the WKEY is poll j and the timer phase. -/
theorem runSteps_wkey {s : State} {x : RegIdx} (hrun : s.Running) (hd : decode s.fetch = some (.wkey x)) (j : Nat)
    (h : ∀ i, i < j → s.inputs.keyWait[i]? = some none) :
    runSteps (j + 1) s = .next ((s.afterPolls j).awaitKey x).timerPhase := by
  induction j with
  | zero =>
    rw [runSteps_succ_of_next rfl, stepRunsDecoded s _ hrun hd, exec_wkey]
    rfl
  | succ j ih =>
    have hgo : s.stopped = false := (running_iff.1 hrun).1
    rw [runSteps_succ_of_next (ih fun i hi => h i (by omega)), poll_without_key (h j (by omega))]
    exact step_of_waiting (s := { s.afterPolls (j + 1) with wait := some x }) hgo rfl

/-- Settles O45: each step is a poll; those without a key stop before the timer phase, the one with the key goes on
to it. -/
theorem keyWaitAnyDelay : Obligations.KeyWaitAnyDelay := by
  intro x k rest n s hrun hd hkeys
  have hnone : ∀ i, i < n → s.inputs.keyWait[i]? = some none := fun i hi => by
    rw [hkeys, List.getElem?_append_left (by simpa using hi), List.getElem?_replicate_of_lt hi]
  have hlist : (s.afterPolls n).inputs.keyWait = some k :: rest := by
    show s.inputs.keyWait.drop n = some k :: rest
    rw [hkeys, List.drop_left' List.length_replicate]
  have ⟨_, hfault, hwait⟩ := hrun
  refine ⟨fun j hj hjn => ?_, _, runSteps_wkey hrun hd n hnone, ?_⟩
  · obtain ⟨i, rfl⟩ := Nat.exists_eq_add_of_le' hj
    refine ⟨_, runSteps_wkey hrun hd i fun m hm => hnone m (by omega), ?_⟩
    rw [poll_without_key (hnone i hjn)]
    rfl
  · exact poll_with_key (s := s.afterPolls n) x hfault hwait hlist rfl

end Sys2Proof.Machine
end

section
/-! PROOFS. The index register's sums, the decimal digits, the block instructions and the HP48 bytes
(47_index_memory.md). -/
namespace Sys2Proof.Machine

/-! ### Index register -/

theorem toNat_ofNat_of_lt {n w : Nat} (h : n < 2 ^ w) : (BitVec.ofNat w n).toNat = n :=
  (BitVec.toNat_ofNat n w).trans (Nat.mod_eq_of_lt h)

/-- A body that is one write to I of a number below 4096 leaves that number in I and everything else alone. -/
theorem writesIndex_of_exec {i : Instr} {s : State} {n : Nat} (h : exec i s = .next (s.setI n)) (hn : n < 4096) :
    ∃ t, exec i s = .next t ∧ t.i.toNat = n ∧ t = { s with i := t.i } :=
  ⟨_, h, toNat_ofNat_of_lt hn, rfl⟩

/-- Settles O28: both bodies are one write to I, and a byte is too small for the address to wrap. -/
theorem fontAddresses : Obligations.FontAddresses := fun x s =>
  ⟨⟨encodes_of_encXNN 0xF 0x29 rfl rfl, writesIndex_of_exec (exec_font s x) (by omega)⟩,
    encodes_of_encXNN 0xF 0x30 rfl rfl, writesIndex_of_exec (exec_font10 s x) (by omega)⟩

theorem addixFlag_eq_ite_sub (i : Addr) (a : Byte) :
    addixFlag i a = if 0xFFF - a.toNat < i.toNat then 1#8 else 0#8 := by
  simp [addixFlag, flagByte]

/-- Settles O29: the body writes the sum to I and then the flag, taken from the old I and Vx, to VF. -/
theorem addIndexSetsFlag : Obligations.AddIndexSetsFlag := by
  refine fun x s => ⟨encodes_of_encXNN 0xF 0x1E rfl rfl, _, exec_addix s x, BitVec.toNat_ofNat _ 12, ?_,
    fun q => getV_setV_ne (s.setI _) _, rfl⟩
  exact (getV_setV_same _ _ _).trans (addixFlag_eq_ite_sub _ _)

/-! ### Decimal digits -/

/-- Settles O46: the three addresses differ, so no digit overwrites another, and each digit fits its byte. -/
theorem bcdStoresDigits : Obligations.BcdStoresDigits := by
  intro x s
  have h01 : s.ea 0 ≠ s.ea 1 := ea_ne s (by decide) (by decide) (by decide)
  have h02 : s.ea 0 ≠ s.ea 2 := ea_ne s (by decide) (by decide) (by decide)
  have h12 : s.ea 1 ≠ s.ea 2 := ea_ne s (by decide) (by decide) (by decide)
  refine ⟨encodes_of_encXNN 0xF 0x33 rfl rfl, _, exec_bcd s x, ?_, ?_, ?_, fun a ha h0 h1 h2 => ?_, rfl⟩
  · rw [memRead_three_writes s _ _ _ (ea_lt s 0), if_neg h02, if_neg h01, if_pos rfl]
    exact toNat_ofNat_of_lt (by omega)
  · rw [memRead_three_writes s _ _ _ (ea_lt s 1), if_neg h12, if_pos rfl]
    exact toNat_ofNat_of_lt (by omega)
  · rw [memRead_three_writes s _ _ _ (ea_lt s 2), if_pos rfl]
    exact toNat_ofNat_of_lt (by omega)
  · rw [memRead_three_writes s _ _ _ ha, if_neg h2, if_neg h1, if_neg h0]

/-! ### Block store and load -/

/-- Settles O47: the registers 0 to x go to different addresses, each store changing memory only. -/
theorem blockStore : Obligations.BlockStore := fun x s =>
  ⟨encodes_of_encXNN 0xF 0x55 rfl rfl, _, exec_stm s x, fun _ => memRead_stm_at s, fun _ => memRead_stm_other s,
    storeRegs_frame _ s⟩

/-- Settles O48: a load leaves I and memory, so each register takes its byte from the memory before the block. -/
theorem blockLoad : Obligations.BlockLoad := by
  refine fun x s => ⟨encodes_of_encXNN 0xF 0x65 rfl rfl, _, exec_ldm s x, fun k hk => ?_, fun k hk => ?_,
    loadRegs_frame _ s⟩
  · rw [getV_loadRegs, if_pos (mem_regsUpTo.2 hk)]
  · rw [getV_loadRegs, if_neg (mt mem_regsUpTo.1 hk.not_ge)]

/-! ### HP48 bytes -/

theorem encode_eq_ofNat_of_encodes {i : Instr} {n : Nat} (h : Encodes i n) : encode i = BitVec.ofNat 16 n := by
  obtain ⟨hn, -⟩ := h
  rw [← hn, BitVec.ofNat_toNat, BitVec.setWidth_eq]

/-- The HP48 byte of a register below 8 has the register's number. -/
theorem hpOf_castLE (j : Fin 8) (h : 8 ≤ 16) : hpOf (j.castLE h) = j :=
  Fin.ext (Nat.mod_eq_of_lt j.isLt)

/-- The HP48 bytes after the registers 0 to x have been stored, x up to 7: each of them has a byte of its own. -/
theorem getHp_storeHp_regsUpTo (s : State) {x : RegIdx} (hx : x.val ≤ 7) (j : Fin 8) :
    (s.storeHp (regsUpTo x)).getHp j = if j.val ≤ x.val then s.getV (j.castLE (by decide)) else s.getHp j := by
  have hlt : ∀ k ∈ regsUpTo x, k.val < 8 := fun k hk =>
    Nat.lt_succ_of_le ((Fin.le_def.1 (mem_regsUpTo.1 hk)).trans hx)
  split
  case isTrue hj =>
    have hat := getHp_storeHp_at (regsUpTo x) s (j.castLE (by decide)) (regsUpTo_nodup x) hlt (mem_regsUpTo.2 hj)
    rwa [hpOf_castLE] at hat
  case isFalse hj =>
    refine getHp_storeHp_other _ s j fun k hk hjk => hj ?_
    have hkj : j.val = k.val := (congrArg Fin.val hjk).trans (Nat.mod_eq_of_lt (hlt k hk))
    exact hkj.trans_le (mem_regsUpTo.1 hk)

/-- Settles O49: STHP stores the block where x is at most 7, and else raises HpIndexRange with its own word. -/
theorem hpStore : Obligations.HpStore := by
  intro x s
  have henc : Encodes (.sthp x) (0xF075 + x.val * 256) := encodes_of_encXNN 0xF 0x75 rfl rfl
  refine ⟨henc, fun hx => ⟨_, (exec_sthp s x).trans (if_neg hx.not_gt), getHp_storeHp_regsUpTo s hx, storeHp_frame _ s⟩,
    fun hx => ?_⟩
  rw [exec_sthp, if_pos hx, encode_eq_ofNat_of_encodes henc]
  rfl

/-- Settles O50: LDHP loads the block where x is at most 7, and else raises HpIndexRange with its own word. -/
theorem hpLoad : Obligations.HpLoad := by
  intro x s
  have henc : Encodes (.ldhp x) (0xF085 + x.val * 256) := encodes_of_encXNN 0xF 0x85 rfl rfl
  refine ⟨henc, fun hx => ⟨_, (exec_ldhp s x).trans (if_neg hx.not_gt), fun j hj => ?_, fun q hq => ?_,
    loadHp_frame _ s⟩, fun hx => ?_⟩
  · rw [getV_loadHp, if_pos (mem_regsUpTo.2 hj), hpOf_castLE]
  · rw [getV_loadHp, if_neg (mt mem_regsUpTo.1 hq.not_ge)]
  · rw [exec_ldhp, if_pos hx, encode_eq_ofNat_of_encodes henc]
    rfl

end Sys2Proof.Machine
end

section
/-! PROOFS. A decoded word is the word of its instruction, and that instruction is well-formed (30_encoding.md R74 to
R79). -/
namespace Sys2Proof

/-- The one term that is not well-formed, DRW with n = 0, would have the word of DRW16, which decodes to DRW16. -/
theorem wf_of_decode {op : Word} {i : Instr} (h : decode op = some i) : i.wf = true := by
  have hop : encode i = op := encode_of_decode h
  cases i with
  | drw x y n =>
    refine bne_iff_ne.2 fun hn => ?_
    subst hn
    have hdrw16 : decode op = some (.drw16 x y) := hop ▸ decodeEncode (.drw16 x y) rfl
    cases h.symm.trans hdrw16
  | _ => rfl

/-- Settles O2: the decoder gives back the fields that it took out, and never DRW with n = 0. -/
theorem encodeDecode : Obligations.EncodeDecode := fun _ _ h => ⟨encode_of_decode h, wf_of_decode h⟩

end Sys2Proof
end

section
/-! PROOFS. Illegal words, the fault outputs, and that every step answers (60_exceptions.md). -/
namespace Sys2Proof.Machine

/-- Settles O8: a running core passes the gate and awaits no key, so it fetches, and its word has no body. -/
theorem illegalWordIsFatal : Obligations.IllegalWordIsFatal := by
  intro s hrun hd
  obtain ⟨hgo, hwait⟩ := running_iff.1 hrun
  have hstep : step s = .next (s.preAdvance.raise .unknownOpcode s.fetch) := by simp [step, hgo, hwait, hd]
  exact hstep

/-- A running core answers: its word is illegal, or has a body, and every body answers. -/
theorem step_answers_of_running {s : State} (hrun : s.Running) : ∃ t, step s = .next t := by
  cases hd : decode s.fetch with
  | none => exact ⟨_, illegalWordIsFatal s hrun hd⟩
  | some i =>
    obtain ⟨u, hu, -⟩ := exec_effect { s with pc := s.pcPlus2 } i
    exact ⟨u.timerPhase, by rw [stepRunsDecoded s i hrun hd, hu]⟩

/-- Settles O12: a core is stopped, awaits a key, or runs. -/
theorem stepAlwaysAnswers : Obligations.StepAlwaysAnswers := by
  intro s
  cases hgo : s.stopped with
  | true => exact ⟨s, step_of_stopped hgo⟩
  | false =>
    cases hwait : s.wait with
    | some x => exact ⟨_, step_of_waiting hgo hwait⟩
    | none => exact step_answers_of_running (running_iff.2 ⟨hgo, hwait⟩)

/-! ### Fault outputs -/

/-- Stepping back from the pre-advanced PC, which may have wrapped, gives the PC before it. -/
theorem faultAddress_raise_preAdvance {s : State} (hpc : s.pc.toNat < 4096) (c : FatalCause) (op : Word) :
    (s.preAdvance.raise c op).faultAddress = s.pc := by
  refine BitVec.eq_of_toNat_eq ?_
  have hadv : (s.preAdvance.raise c op).pc.toNat = (s.pc.toNat + 2) % 4096 := pcOf_toNat _
  rw [State.faultAddress, pcOf_toNat, hadv, Config.memSize]
  omega

/-- Settles O56: the outputs read the latch, and a step that latches has raised on the pre-advanced state. -/
theorem faultOutputs : Obligations.FaultOutputs := by
  refine fun s => ⟨fun h => ?_, fun r h => ?_, fun t ht hpc hs hfault => ?_⟩
  · simp [State.faultValid, State.faultCode, h]
  · obtain ⟨cause, op⟩ := r
    simp only [State.faultValid, State.faultOpcode, State.faultCode, h]
    cases cause <;> exact ⟨rfl, rfl, rfl⟩
  · obtain ⟨-, c, rfl, -⟩ := raise_of_step_faults ht hs hfault
    exact faultAddress_raise_preAdvance hpc c s.fetch

end Sys2Proof.Machine
end

section
/-! PROOFS. Reset with a program (70_reset_and_hazards.md). -/
namespace Sys2Proof.Machine

/-- A list of writes keeps the invariant: it changes the memory list only, and keeps its canonical form. -/
theorem State.Inv.memWriteList {s : State} (hs : s.Inv) (a : Nat) (vs : List Byte) : (s.memWriteList a vs).Inv := by
  rw [memWriteList_frame]
  exact { hs with mem_wf := wf_memWriteList vs s a hs.mem_wf }

/-- At reset memory is zero from 0x200 upward, so the first fetch reads the word 0x0000. -/
theorem reset_fetch : State.reset.fetch = 0x0000#16 := by
  have hhi : State.reset.memRead State.reset.pc.toNat = 0#8 := reset_memRead_of_ge (by decide) (by decide)
  have hlo : State.reset.memRead (State.reset.pc.toNat + 1) = 0#8 := reset_memRead_of_ge (by decide) (by decide)
  rw [State.fetch, hhi, hlo]
  rfl

/-- The first step after a reset with the empty program: 0x0000 selects no row of the opcode map. -/
theorem step_reset : step State.reset =
    .next { State.reset with pc := 0x202#16, fault := some { cause := .unknownOpcode, op := 0x0000#16 } } := by
  have hillegal : decode State.reset.fetch = none := by rw [reset_fetch]; rfl
  rw [illegalWordIsFatal State.reset ⟨rfl, rfl, rfl⟩ hillegal, reset_fetch]
  rfl

/-- A program that fits ends inside the address space, so each of its bytes has an address of its own. -/
theorem memRead_reset_program {rom : List Byte} (hrom : rom.length ≤ 0xE00) {b : Nat} (hb : b < 4096) :
    (State.reset.memWriteList 0x200 rom).memRead b =
      if h : 0x200 ≤ b ∧ b < 0x200 + rom.length then rom[b - 0x200]'(by omega) else State.reset.memRead b :=
  memRead_memWriteList rom State.reset 0x200 b hb (by omega)

/-- Settles O55: a program that fits is a list of writes on the reset state, and the empty one leaves it as it is. -/
theorem resetWithProgram : Obligations.ResetWithProgram := by
  refine ⟨fun rom hrom => ⟨_, if_pos hrom, fun k hk => ?_, fun a ha hout => ?_, memWriteList_frame rom _ _,
    resetHasInv.memWriteList _ rom⟩, fun rom hrom => if_neg hrom.not_ge, rfl, step_reset⟩
  · rw [memRead_reset_program hrom (by omega), dif_pos (by omega)]
    simp
  · rw [memRead_reset_program hrom ha, dif_neg (by omega)]

end Sys2Proof.Machine
end
